-- ==== Sys2Proof/Word.lean ====
section
/-! DEFINITION. The words of KRB-SEQ: the 32-bit command word (R70), the byte of the write port (R50, R52), and the two
notions of "field read as a number" that the rules use (R8, R9). -/

namespace Sys2Proof

/-- A command word, taken whole from `cmd_word[31:0]` (R57, R70). -/
abbrev Word := BitVec 32

/-- One byte: a register address or a value on the write port (R50, R52). -/
abbrev Byte := BitVec 8

/-- The 16-bit IMM field of a command word (R70, R75). -/
abbrev Imm := BitVec 16

end Sys2Proof
end

