-- ==== Sys2Proof/Machine/Literals.lean ====
section
/-! DEFINITION. The named literals of R5: the record of them, and the values that this hardware takes. -/

namespace Sys2Proof

/-- The named literals of R5, one field each, the widths among them. Every rule of the model reads them from the
configuration (`State.cfg.lit`), so that an audited value can be substituted "without changing any rule" (92 D27, 93 I1).
The values of this hardware are `Sys2Proof.Machine.lit`. What a value other than the default means for a field layout that
the spec fixes (R29, R34, R35, R70, R136) is log entry 7. -/
structure Literals where
  /-- N_SERVO, servo channels. -/
  nServo : Nat
  /-- N_MOTOR, motor channels. -/
  nMotor : Nat
  /-- N_STEPPER, steppers. -/
  nStepper : Nat
  /-- REG_MODE1, the mode-1 register address. -/
  regMode1 : Byte
  /-- MODE1_WAKE, the value written to mode-1. -/
  mode1Wake : Byte
  /-- REG_PRESCALE, the prescale register address. -/
  regPrescale : Byte
  /-- PRESCALE_VAL, the value written to prescale. -/
  prescaleVal : Byte
  /-- REG_ALL_FIRST, the first all-channels register. -/
  regAllFirst : Nat
  /-- REG_ALL_LAST, the last all-channels register. -/
  regAllLast : Nat
  /-- SERVO_BASE0, the base of servo 1. -/
  servoBase0 : Nat
  /-- SERVO_STRIDE, the spacing of servo bases. -/
  servoStride : Nat
  /-- MOTOR_BASE0, the base of motor 1. -/
  motorBase0 : Nat
  /-- MOTOR_STRIDE, the spacing of motor bases. -/
  motorStride : Nat
  /-- PAIR_OFS, the offset of a motor's second register pair. -/
  pairOfs : Nat
  /-- DEG_MAX, the servo angle's upper bound. -/
  degMax : Int
  /-- MULT_MIN, the servo multiplier's lower bound. -/
  multMin : Int
  /-- MULT_MAX, the servo multiplier's upper bound. -/
  multMax : Int
  /-- MULT_RST, the servo multiplier at reset. -/
  multRst : Byte
  /-- ZERO_MIN, the servo zero offset's lower bound. -/
  zeroMin : Int
  /-- ZERO_MAX, the servo zero offset's upper bound. -/
  zeroMax : Int
  /-- ZERO_RST, the servo zero offset at reset. -/
  zeroRst : Byte
  /-- SPEED_MAX, the motor speed's upper bound. -/
  speedMax : Int
  /-- SPEED_SCALE, the motor speed's multiplier. -/
  speedScale : Int
  /-- STEP_SPEED, the speed of each stepper phase. -/
  stepSpeed : Int
  /-- ANGLE_MIN, the stepper angle's lower bound. -/
  angleMin : Int
  /-- ANGLE_MAX, the stepper angle's upper bound. -/
  angleMax : Int
  /-- SPR_RST, the steps per revolution of both steppers at reset. -/
  sprRst : BitVec 16
  /-- PCT_MAX, the reduction percentage's upper bound. -/
  pctMax : Int
  /-- REDUCE_BASE, the multiplier base of REDUCE_PULSE. -/
  reduceBase : Int
  /-- SPR_WIDTH, the width of a steps-per-revolution register: SET_SPR stores the low SPR_WIDTH bits of IMM. -/
  sprWidth : Nat
  /-- STEPS_WIDTH, the width of a step count in STEP_TURN: the low STEPS_WIDTH bits of IMM. -/
  stepsWidth : Nat
  /-- CMD_WIDTH, the command word width: a word that does not fit it is no command. -/
  cmdWidth : Nat
  deriving DecidableEq, Repr

end Sys2Proof

namespace Sys2Proof.Machine

/-- The "value" column of R5. -/
def lit : Literals where
  nServo := 8
  nMotor := 4
  nStepper := 2
  regMode1 := 0x00
  mode1Wake := 0x01
  regPrescale := 0xFE
  prescaleVal := 0x85
  regAllFirst := 0xFA
  regAllLast := 0xFD
  servoBase0 := 0x08
  servoStride := 4
  motorBase0 := 0x28
  motorStride := 8
  pairOfs := 4
  degMax := 180
  multMin := 113
  multMax := 226
  multRst := 226
  zeroMin := 0x66
  zeroMax := 0xCC
  zeroRst := 0x66
  speedMax := 100
  speedScale := 40
  stepSpeed := 100
  angleMin := 1
  angleMax := 360
  sprRst := 200
  pctMax := 50
  reduceBase := 226
  sprWidth := 16
  stepsWidth := 16
  cmdWidth := 32

end Sys2Proof.Machine
end

