-- ==== Sys2Proof/Config.lean ====
section
/-! DEFINITION. What an implementation of KRB-SEQ fixes (R5, 92_eei_decisions.md, 93_implementation_defined.md part 1):
every
implementation parameter with its default, and the one free value, the strap. -/

namespace Sys2Proof

/-- The four device addresses the board can select (R5, R50). The parameter DEV_ADDR is OPEN (92 D10, 93 I12). -/
inductive DevAddr where
  | a6C | a6D | a6E | a6F
  deriving DecidableEq, Repr, Inhabited

/-- The rounding of the angle-to-step map, STEP_ROUND (R136; 93 I3). -/
inductive StepRound where
  | trunc | floor | nearest | ceil
  deriving DecidableEq, Repr

/-- The implementation parameters of R5, each with the "value" column as its default, and those of 93 I4, I5 and R63. They
are no state of the block (R38): `State` carries them so that a statement can hold for every value of them, and no command
writes them. -/
structure Config where
  /-- DEV_ADDR, put on every write (R5, R38; 92 D10). -/
  devAddr : DevAddr
  /-- The device addresses of the other KRB-SEQ instances on the same transport (R63). -/
  others : List DevAddr := []
  /-- DWELL_MS, default 20 (R5, R180; 93 I14). -/
  dwellMs : Nat := 20
  /-- STEP_ROUND, default TRUNC (R5, R136; 93 I3). -/
  stepRound : StepRound := .trunc
  /-- PCT_CLAMP, default true: REDUCE_PULSE clamps its percentage (93 I4). -/
  pctClamp : Bool := true
  /-- SETTER_INIT, default false: the setters do not run EnsureReady (93 I5). -/
  setterInit : Bool := false
  /-- Every other parameter of R5: the named literals and the widths (92 D27, 93 I1). -/
  lit : Literals := Machine.lit
  deriving DecidableEq, Repr

/-- The strap that this hardware has at power-on: a FREE VALUE, since the spec leaves DEV_ADDR OPEN (log entry 6). -/
opaque Config.strap : DevAddr

/-- The configuration at reset: the strap is free, every other parameter at its stated default (R5). -/
def Config.atReset : Config where
  devAddr := Config.strap

end Sys2Proof
end

