-- ==== Sys2Proof/Syntax.lean ====
section
/-! DEFINITION. The command set of KRB-SEQ, edition 1: one constructor for each row of spec/opcode_table.json (R77). -/

namespace Sys2Proof

/-- The direction operand D (R13, R74): 0 is Forward, 1 is Reverse. -/
inductive Dir where
  | forward | reverse
  deriving DecidableEq, Repr

/-- A command with its operands (R76, R77). A channel is the number the rules use: Servo(n) for n in 1..8, Motor(m) for
m in 1..4, Stepper k for k in 1..2 (R13, R72). An immediate is the IMM field itself; whether it is read signed or
unsigned is fixed by the operation (R75) and done in its meaning. -/
inductive Instr where
  /-- INIT (R100). -/
  | init
  /-- SERVO_WRITE s<n>, imm (R110). -/
  | servoWrite (n : Nat) (imm : Imm)
  /-- SERVO_STOP s<n> (R113). -/
  | servoStop (n : Nat)
  /-- MOTOR_ON m<m>, dir, imm (R120). -/
  | motorOn (m : Nat) (dir : Dir) (imm : Imm)
  /-- MOTOR_OFF m<m> (R123). -/
  | motorOff (m : Nat)
  /-- STEP_TURN t<k>, dir, imm (R130). -/
  | stepTurn (k : Nat) (dir : Dir) (imm : Imm)
  /-- STEP_ANGLE t<k>, dir, imm (R135). -/
  | stepAngle (k : Nat) (dir : Dir) (imm : Imm)
  /-- SET_MULT imm (R150). -/
  | setMult (imm : Imm)
  /-- SET_ZERO imm (R152). -/
  | setZero (imm : Imm)
  /-- SET_SPR t<k>, imm (R154). -/
  | setSpr (k : Nat) (imm : Imm)
  /-- REDUCE_PULSE imm (R156). -/
  | reducePulse (imm : Imm)
  /-- ALL_OFF (R158). -/
  | allOff
  deriving DecidableEq, Repr

end Sys2Proof
end

