-- ==== Sys2Proof/WellFormed.lean ====
section
/-! DEFINITION. Which terms of `Instr` are commands: the channel number must exist (R72, R80: "refuses a channel outside
its range"). Every 16-bit immediate is in range by its type (R75, R80). -/

namespace Sys2Proof

/-- Servo(n) exists for n in 1..N_SERVO, here 1..8 (R5, R13, R72). -/
def servoExists (L : Literals) (n : Nat) : Bool := 1 ≤ n && n ≤ L.nServo

/-- Motor(m) exists for m in 1..N_MOTOR, here 1..4 (R5, R13, R72). -/
def motorExists (L : Literals) (m : Nat) : Bool := 1 ≤ m && m ≤ L.nMotor

/-- Stepper k exists for k in 1..N_STEPPER, here 1..2 (R5, R13, R72). -/
def stepperExists (L : Literals) (k : Nat) : Bool := 1 ≤ k && k ≤ L.nStepper

/-- The check of one command (R72, R80). -/
def Instr.wf (L : Literals) : Instr → Bool
  | .init => true
  | .servoWrite n _ => servoExists L n
  | .servoStop n => servoExists L n
  | .motorOn m _ _ => motorExists L m
  | .motorOff m => motorExists L m
  | .stepTurn k _ _ => stepperExists L k
  | .stepAngle k _ _ => stepperExists L k
  | .setMult _ => true
  | .setZero _ => true
  | .setSpr k _ => stepperExists L k
  | .reducePulse _ => true
  | .allOff => true

/-- The same check as a proposition. -/
abbrev Instr.WellFormed (L : Literals) (i : Instr) : Prop := i.wf L = true

end Sys2Proof
end

