-- ==== Sys2Proof/Decode.lean ====
section
/-! DEFINITION. The decoder of command words, total on all 2^32 words and rejecting by name (R70 to R79), the opcode map
as match and mask (R77), and the encoder (R80). The command word is taken as one parallel 32-bit word, so it has no byte
order (R57). -/

namespace Sys2Proof

/-- Why a word is illegal: the classes that R78 lists. Every one of them has the same effect, IllegalCommand (R172);
the name is the model's own report (log entry 15). -/
inductive Illegal where
  /-- OP is 0x0, 0xD, 0xE or 0xF (R71). -/
  | opcode
  /-- `RSV != 0` (R73). -/
  | reserved
  /-- A CH bit is set that the form requires to be 0 (R72). -/
  | channel
  /-- `D = 1` in a form without a direction (R73). -/
  | direction
  /-- `IMM != 0` in a form without an immediate (R73). -/
  | immediate
  /-- The word does not fit CMD_WIDTH bits (R5); there is no such word at the default, CMD_WIDTH = 32 (log entry 7). -/
  | width
  deriving DecidableEq, Repr

/-- OP = word[31:28] (R70). -/
def opOf (w : Word) : BitVec 4 := w.extractLsb' 28 4

/-- CH = word[27:24] (R70). -/
def chOf (w : Word) : BitVec 4 := w.extractLsb' 24 4

/-- D = word[23] (R70). -/
def dOf (w : Word) : BitVec 1 := w.extractLsb' 23 1

/-- RSV = word[22:16] (R70). -/
def rsvOf (w : Word) : BitVec 7 := w.extractLsb' 16 7

/-- IMM = word[15:0] (R70). -/
def immOf (w : Word) : Imm := w.extractLsb' 0 16

/-- The channel number that CH selects: `CH + 1` (R72). -/
def channelOf (w : Word) : Nat := (chOf w).toNat + 1

/-- The direction that D encodes (R74). -/
def dirOf (w : Word) : Dir := if dOf w = 0 then .forward else .reverse

/-- An operand form of R76: how many channels CH may select (1 means CH must be 0: no bit of it is free; the counts N_SERVO,
N_MOTOR and N_STEPPER are R5's), and whether the
form has a direction and an immediate. -/
structure Form where
  channels : Nat
  hasDir : Bool
  hasImm : Bool
  deriving DecidableEq, Repr

/-- FN: no operand (R76). -/
def Form.fn : Form := ⟨1, false, false⟩
/-- FS: servo (R76). -/
def Form.fs (L : Literals) : Form := ⟨L.nServo, false, false⟩
/-- FSI: servo and signed immediate (R76). -/
def Form.fsi (L : Literals) : Form := ⟨L.nServo, false, true⟩
/-- FM: motor (R76). -/
def Form.fm (L : Literals) : Form := ⟨L.nMotor, false, false⟩
/-- FMDI: motor, direction and signed immediate (R76). -/
def Form.fmdi (L : Literals) : Form := ⟨L.nMotor, true, true⟩
/-- FTDI: stepper, direction and immediate (R76). -/
def Form.ftdi (L : Literals) : Form := ⟨L.nStepper, true, true⟩
/-- FTI: stepper and unsigned immediate (R76). -/
def Form.fti (L : Literals) : Form := ⟨L.nStepper, false, true⟩
/-- FI: signed immediate (R76). -/
def Form.fi : Form := ⟨1, false, true⟩

/-- The must-be-0 rule that `w` breaks in this form, if any (R72, R73, R76). -/
def Form.violation (f : Form) (w : Word) : Option Illegal :=
  if rsvOf w ≠ 0 then some .reserved
  else if f.channels ≤ (chOf w).toNat then some .channel
  else if f.hasDir = false ∧ dOf w ≠ 0 then some .direction
  else if f.hasImm = false ∧ immOf w ≠ 0 then some .immediate
  else none

/-- The command, if the word obeys its form; the broken rule by name otherwise. -/
def Form.accept (f : Form) (w : Word) (i : Instr) : Except Illegal Instr :=
  match f.violation w with
  | none => .ok i
  | some e => .error e

/-- Decoding under the parameters `L` (R71 to R78): OP selects the operation and its form, every must-be-0 bit is checked. -/
def decode (L : Literals) (w : Word) : Except Illegal Instr :=
  if 2 ^ L.cmdWidth ≤ w.toNat then .error .width
  else match (opOf w).toNat with
  | 0x1 => Form.fn.accept w .init
  | 0x2 => (Form.fsi L).accept w (.servoWrite (channelOf w) (immOf w))
  | 0x3 => (Form.fs L).accept w (.servoStop (channelOf w))
  | 0x4 => (Form.fmdi L).accept w (.motorOn (channelOf w) (dirOf w) (immOf w))
  | 0x5 => (Form.fm L).accept w (.motorOff (channelOf w))
  | 0x6 => (Form.ftdi L).accept w (.stepTurn (channelOf w) (dirOf w) (immOf w))
  | 0x7 => (Form.ftdi L).accept w (.stepAngle (channelOf w) (dirOf w) (immOf w))
  | 0x8 => Form.fi.accept w (.setMult (immOf w))
  | 0x9 => Form.fi.accept w (.setZero (immOf w))
  | 0xA => (Form.fti L).accept w (.setSpr (channelOf w) (immOf w))
  | 0xB => Form.fi.accept w (.reducePulse (immOf w))
  | 0xC => Form.fn.accept w .allOff
  | _ => .error .opcode

/-- A row of the opcode map: a word belongs to it exactly when `(w AND mask) = match` (R77, R78). -/
structure Row where
  mnemonic : String
  pattern : Word
  mask : Word
  deriving DecidableEq, Repr

/-- The twelve rows of R77, as the table writes them for the channel counts of this hardware (8, 4 and 2). -/
def rows : List Row :=
  [⟨"INIT", 0x10000000, 0xFFFFFFFF⟩, ⟨"SERVO_WRITE", 0x20000000, 0xF8FF0000⟩,
   ⟨"SERVO_STOP", 0x30000000, 0xF8FFFFFF⟩, ⟨"MOTOR_ON", 0x40000000, 0xFC7F0000⟩,
   ⟨"MOTOR_OFF", 0x50000000, 0xFCFFFFFF⟩, ⟨"STEP_TURN", 0x60000000, 0xFE7F0000⟩,
   ⟨"STEP_ANGLE", 0x70000000, 0xFE7F0000⟩, ⟨"SET_MULT", 0x80000000, 0xFFFF0000⟩,
   ⟨"SET_ZERO", 0x90000000, 0xFFFF0000⟩, ⟨"SET_SPR", 0xA0000000, 0xFEFF0000⟩,
   ⟨"REDUCE_PULSE", 0xB0000000, 0xFFFF0000⟩, ⟨"ALL_OFF", 0xC0000000, 0xFFFFFFFF⟩]

/-- The word belongs to the row (R78). -/
def Row.covers (r : Row) (w : Word) : Bool := (w &&& r.mask) == r.pattern

/-- The D bit of a direction (R74). -/
def Dir.bit : Dir → BitVec 1
  | .forward => 0
  | .reverse => 1

/-- One word from its fields: `{OP, CH, D, RSV = 0, IMM}` (R70). -/
def assemble (op ch : BitVec 4) (d : BitVec 1) (imm : Imm) : Word :=
  op ++ ch ++ d ++ (0 : BitVec 7) ++ imm

/-- The CH field of a channel number: `CH = n − 1` (R72, R80). -/
def chField (n : Nat) : BitVec 4 := BitVec.ofNat 4 (n - 1)

/-- The encoder, from the encoding column of R80. -/
def encode : Instr → Word
  | .init => assemble 0x1 0 0 0
  | .servoWrite n imm => assemble 0x2 (chField n) 0 imm
  | .servoStop n => assemble 0x3 (chField n) 0 0
  | .motorOn m dir imm => assemble 0x4 (chField m) dir.bit imm
  | .motorOff m => assemble 0x5 (chField m) 0 0
  | .stepTurn k dir imm => assemble 0x6 (chField k) dir.bit imm
  | .stepAngle k dir imm => assemble 0x7 (chField k) dir.bit imm
  | .setMult imm => assemble 0x8 0 0 imm
  | .setZero imm => assemble 0x9 0 0 imm
  | .setSpr k imm => assemble 0xA (chField k) 0 imm
  | .reducePulse imm => assemble 0xB 0 0 imm
  | .allOff => assemble 0xC 0 0 0

/-- The command of this hardware in a word of the opcode table's numbering (bit 0 the least significant). A command is always exactly
32 bits (R70): the bits above `nbits` are 0, and a number that does not fit 32 bits is no command word. -/
def decodeTableWord (nbits w : Nat) : Option Instr :=
  let v := w % 2 ^ nbits
  if v < 2 ^ 32 then
    match decode Machine.lit (BitVec.ofNat 32 v) with
    | .ok i => some i
    | .error _ => none
  else none

end Sys2Proof
end

