-- ==== Sys2Proof/Machine/State.lean ====
section
/-! DEFINITION. The state of KRB-SEQ (10_state.md R20 to R39), the observation of a run (R7), what the environment does
next (the host, the transport and the dwell timer, R6), the reasons a step can stop, and the state after reset. -/

namespace Sys2Proof.Machine

/-- STATUS.RESULT, the outcome of the most recent command (R32). -/
inductive Result where
  | none | ok | transport | illegal
  deriving DecidableEq, Repr

/-- How a write ended (R7): answered OK, answered NACK, or abandoned by reset (R190). -/
inductive Resp where
  | ok | nack | lost
  deriving DecidableEq, Repr

/-- One event of the trace (R7): `W(dev, reg, val, resp)` or `DW(ms)`. -/
inductive Event where
  | write (dev reg val : Byte) (resp : Resp)
  | dwell (ms : Nat)
  deriving DecidableEq, Repr

/-- A control point of a command (R21): "one `MemWrite` or `Dwell` of the command's rule". `wake k` is the k-th write of
EnsureReady (from 0), `body k` the k-th write of the command's own list (in a turn: of the current step's list), `dwell`
the Dwell of the current step. The loop counters that complete the point are PHASE and STEP_I. -/
inductive Point where
  | wake (k : Nat)
  | body (k : Nat)
  | dwell
  deriving DecidableEq, Repr

/-- SEQ, the sequencer position (R21): IDLE, or BUSY(cmd, point). -/
inductive SeqPos where
  | idle
  | busy (word : Word) (point : Point)
  deriving DecidableEq, Repr

/-- What the host does (R6, R36): it presents a command word until the block accepts it, or it asserts and releases `rst`
(R190), where it may also set the DEV_ADDR strap (R193: constant "until the next reset"; `none` leaves it). -/
inductive HostInput where
  | cmd (word : Word)
  | rst (strap : Option DevAddr)
  deriving DecidableEq, Repr

/-- What happens at one `MemWrite` (R12, R52): the transport answers OK or NACK, or it does not answer (the block waits
without limit), or the sequencer has not yet presented the write (R204: the time between a response and the next write is
not specified). The last two hold the sequencer at the write; only a reset ends them (log entries 2 and 11). -/
inductive WriteFate where
  | ok | nack | unanswered | unissued
  deriving DecidableEq, Repr

/-- What happens at one `Dwell` (R180, R204): it elapses, or it has not elapsed yet (log entry 3). -/
inductive DwellFate where
  | elapses | holds
  deriving DecidableEq, Repr

/-- What an oracle does at its successive uses: the listed items first, then `rest` for ever (R6: "The transport is an
oracle"; log entry 2). -/
structure Script (α : Type) where
  listed : List α
  rest : α
  deriving DecidableEq, Repr

/-- Everything that changes as KRB-SEQ runs, and the data that fix what its environment does. -/
structure State where
  /-- SEQ (R21). -/
  seq : SeqPos
  /-- CHIP_INIT (R22). -/
  chipInit : Bool
  /-- TRIM_MULT (R23). -/
  trimMult : Byte
  /-- TRIM_ZERO (R24). -/
  trimZero : Byte
  /-- SPR[1] (R25). -/
  spr1 : BitVec 16
  /-- SPR[2] (R25). -/
  spr2 : BitVec 16
  /-- PHASE, as "a 2-bit field that holds `PHASE − 1`" (R27). -/
  phase : BitVec 2
  /-- STEP_I (R28). -/
  stepI : BitVec 17
  /-- STATUS.RESULT (R32). -/
  result : Result
  /-- STATUS.FAIL_REG (R33). -/
  failReg : Byte
  /-- The trace emitted so far (R7), newest event first; `State.trace` is the trace in order. No command reads it. -/
  log : List Event
  /-- The model's own: what the host does next (R36; log entry 4). -/
  host : List HostInput
  /-- The model's own: what the transport does at the next writes (R6, R52; log entry 2). -/
  transport : Script WriteFate
  /-- The model's own: what the dwell timer does at the next dwells (R180; log entry 3). -/
  dwells : Script DwellFate
  /-- The model's own: the parameters, the named literals among them (R5, R38; log entry 7). -/
  cfg : Config
  deriving DecidableEq, Repr

/-- The trace, oldest event first (R7). -/
def State.trace (s : State) : List Event := s.log.reverse

/-- Reasons for which the machine stops with a fault: NONE. KRB-SEQ has exactly two error causes (R170), and both end
the command in a next state (R174). A transport that never answers is a stuck state, not a fault (R52; log entry 5). -/
inductive Fault where
  deriving DecidableEq, Repr

/-- Reasons for which the model gives no step. -/
inductive Refusal where
  /-- Raised by `exec` for an instruction that has no meaning in the model; no arm raises it. Safe. -/
  | notModelled (mnemonic : String)
  /-- Raised by `step` in a configuration in which two instances on the transport, this one or others, have the same DEV_ADDR,
  as the spec asks: "a model must refuse such a configuration" (R63; 93 I9). Safe: nothing is claimed of such a platform. -/
  | sharedDevAddr
  deriving DecidableEq, Repr

/-- KRB-SEQ right after reset (R39), with nothing emitted, a host that does nothing, a transport that answers every write
OK and dwells that elapse (log entries 2, 3, 4). -/
def State.reset : State where
  seq := .idle
  chipInit := false
  trimMult := Config.atReset.lit.multRst
  trimZero := Config.atReset.lit.zeroRst
  spr1 := Config.atReset.lit.sprRst
  spr2 := Config.atReset.lit.sprRst
  phase := 0
  stepI := 0
  result := .none
  failReg := 0x00
  log := []
  host := []
  transport := ⟨[], .ok⟩
  dwells := ⟨[], .elapses⟩
  cfg := Config.atReset

end Sys2Proof.Machine
end

