-- ==== Sys2Proof/Machine/Flags.lean ====
section
/-! DEFINITION. The host-visible words (R29 to R36). KRB-SEQ has no condition codes or arithmetic flags (R40): STATUS is its
only status register, and every bit of STATUS, CFG0 and CFG1 is a view of the state. -/

namespace Sys2Proof.Machine

/-- The code of an outcome in STATUS.RESULT (R32). -/
def Result.code : Result → BitVec 2
  | .none => 0b00
  | .ok => 0b01
  | .transport => 0b10
  | .illegal => 0b11

/-- STATUS.BUSY: 1 when SEQ is not IDLE (R29, R30). -/
def State.busy (s : State) : Bool :=
  match s.seq with
  | .idle => false
  | .busy _ _ => true

/-- `cmd_ready`: 1 exactly when `SEQ = IDLE` (R36). -/
def State.cmdReady (s : State) : Bool := !s.busy

/-- A bit as a one-bit field. -/
def bit (b : Bool) : BitVec 1 := if b then 1 else 0

/-- STATUS (R29): reserved[31:16], FAIL_REG[15:8], reserved[7:4], RESULT[3:2], INIT[1], BUSY[0]. -/
def State.status (s : State) : Word :=
  (0 : BitVec 16) ++ s.failReg ++ (0 : BitVec 4) ++ s.result.code ++ bit s.chipInit ++ bit s.busy

/-- CFG0 (R34): `{16'b0, TRIM_ZERO[7:0], TRIM_MULT[7:0]}`. -/
def State.cfg0 (s : State) : Word := (0 : BitVec 16) ++ s.trimZero ++ s.trimMult

/-- CFG1 (R35): `{SPR[2][15:0], SPR[1][15:0]}`. -/
def State.cfg1 (s : State) : Word := s.spr2 ++ s.spr1

end Sys2Proof.Machine
end

