-- ==== Sys2Proof/Machine/Operands.lean ====
section
/-! DEFINITION. The named operations on exact integers (R9 to R11) and every operand form: the two readings of IMM (R75) and
each clamped operand with its documented bounds (R110, R120, R135, R150, R152, R156), which are parameters of R5; the numbers
in the comments are their defaults. -/

namespace Sys2Proof.Machine

/-- `clamp(lo, hi, v) = min(hi, max(lo, v))` (R10, for `lo <= hi`; parameters that break that order: log entry 23). -/
def clamp (lo hi v : Int) : Int := min hi (max lo v)

/-- `fdiv(a, b)`, floor division for `b > 0` (R10; any other `b`: log entry 24). -/
def fdiv (a b : Int) : Int := a / b

/-- `a mod b = a − b × fdiv(a, b)`, in `0..b−1` for `b > 0` (R10). -/
def imod (a b : Int) : Int := a - b * fdiv a b

/-- `tdiv(a, b) = sign(a) × sign(b) × fdiv(|a|, |b|)`, for `b != 0` (R10; `b = 0`: log entry 24). -/
def tdiv (a b : Int) : Int := a.sign * b.sign * fdiv (a.natAbs : Int) (b.natAbs : Int)

/-- `sext_16(IMM)`, in −32768..32767 (R9, R75). -/
def sext16 (imm : Imm) : Int := imm.toInt

/-- `zext_16(IMM)`, in 0..65535 (R9, R75). -/
def zext16 (imm : Imm) : Nat := imm.toNat

/-- A value in 0..255 as the byte put on the write port (R12). DESIGN CHOICE: a value outside 0..255, which only parameters
other than R5's can give, is reduced modulo 256 (log entry 23). -/
def byteOf (v : Int) : Byte := BitVec.ofInt 8 v

/-- The low byte of a pair, `value mod 256` (R57). -/
def lowByte (v : Int) : Byte := byteOf (imod v 256)

/-- The servo angle operand (R110): `clamp(0, 180, sext_16(IMM))`. -/
def servoAngle (L : Literals) (imm : Imm) : Int := clamp 0 L.degMax (sext16 imm)

/-- The motor speed operand (R120): `clamp(0, 100, sext_16(IMM))`. -/
def motorSpeed (L : Literals) (imm : Imm) : Int := clamp 0 L.speedMax (sext16 imm)

/-- The stepper angle operand (R135): `clamp(1, 360, sext_16(IMM))`. -/
def stepperAngle (L : Literals) (imm : Imm) : Int := clamp L.angleMin L.angleMax (sext16 imm)

/-- A field of `w` bits: the low `w` bits of a number (R8). -/
def lowBits (w v : Nat) : Nat := v % 2 ^ w

/-- The step count operand (R130): `zext_16(IMM)`, not clamped; STEPS_WIDTH is its width (R5). -/
def stepCount (L : Literals) (imm : Imm) : Nat := lowBits L.stepsWidth (zext16 imm)

/-- The steps-per-revolution operand (R154): `zext_16(IMM)`, stored as given; SPR_WIDTH is its width (R5). -/
def sprValue (L : Literals) (imm : Imm) : BitVec 16 := BitVec.ofNat 16 (lowBits L.sprWidth (zext16 imm))

/-- The value a multiplier write stores (R23, R150): clamped into 113..226; bounds that do not fit the byte:
log entry 23. -/
def multValue (L : Literals) (v : Int) : Byte := byteOf (clamp L.multMin L.multMax v)

/-- The value a zero-offset write stores (R24, R152): clamped into 102..204; bounds that do not fit the byte:
log entry 23. -/
def zeroValue (L : Literals) (v : Int) : Byte := byteOf (clamp L.zeroMin L.zeroMax v)

/-- The reduction percentage (R156): `clamp(0, 50, sext_16(IMM))`; with PCT_CLAMP false, `sext_16(IMM)` (93 I4). -/
def reducePct (L : Literals) (pctClamp : Bool) (imm : Imm) : Int :=
  if pctClamp then clamp 0 L.pctMax (sext16 imm) else sext16 imm

end Sys2Proof.Machine
end

