-- ==== Sys2Proof/Machine/Ops.lean ====
section
/-! DEFINITION. The primitives that every command is built from (R12): one write on the write port, one dwell, raising an
error (the abort rule R174, KRB-SEQ's only exception entry), normal completion (R176; there is no return from an error,
R178), reset (R190), and acceptance (R36). Register access is one byte wide and always aligned (R59). -/

namespace Sys2Proof

/-- The address byte of a strap setting (R5: 0x6C to 0x6F). -/
def DevAddr.byte : DevAddr → Byte
  | .a6C => 0x6C
  | .a6D => 0x6D
  | .a6E => 0x6E
  | .a6F => 0x6F

end Sys2Proof

namespace Sys2Proof.Machine

/-- The k-th item of an oracle's script, from 0. -/
def Script.at {α : Type} (sc : Script α) (k : Nat) : α := sc.listed.getD k sc.rest

/-- The next item of an oracle's script. -/
def Script.head {α : Type} (sc : Script α) : α := sc.at 0

/-- The script after `k` uses. -/
def Script.drop {α : Type} (k : Nat) (sc : Script α) : Script α := ⟨sc.listed.drop k, sc.rest⟩

/-- One write to be issued: `MemWrite(reg, 1, val)` (R12). -/
structure RegWrite where
  reg : Byte
  val : Byte
  deriving DecidableEq, Repr

/-- How a stretch of a command's pseudocode ends: it goes on to the next statement, or the command is over for this step
(it was aborted, or it is held at a control point). -/
inductive Flow where
  | on (s : State)
  | off (s : State)
  deriving DecidableEq, Repr

/-- The next statements run only where the ones before go on. -/
def Flow.andThen (f : Flow) (k : State → Flow) : Flow :=
  match f with
  | .on s => k s
  | .off s => .off s

/-- The event of a write of this instance: every write carries DEV_ADDR (R12, R52). -/
def State.writeEvent (s : State) (w : RegWrite) (resp : Resp) : Event :=
  .write s.cfg.devAddr.byte w.reg w.val resp

/-- The write port's write `w` has ended with `resp`: the event is in the trace, and the transport's next item is that of
the next write (R52 (3)). -/
def State.answered (w : RegWrite) (resp : Resp) (s : State) : State :=
  { s with log := s.writeEvent w resp :: s.log, transport := s.transport.drop 1 }

/-- The two error causes (R170). -/
inductive Error where
  /-- The transport answered the write to this register NACK (R171). -/
  | transport (reg : Byte)
  /-- The accepted word is not legal (R172). -/
  | illegal (word : Word)
  deriving DecidableEq, Repr

/-- The code of an error in STATUS.RESULT (R170). -/
def Error.result : Error → Result
  | .transport _ => .transport
  | .illegal _ => .illegal

/-- The value an error records in STATUS.FAIL_REG (R33, R170). -/
def Error.failReg : Error → Byte
  | .transport reg => reg
  | .illegal _ => 0x00

/-- `raise E(info)`: the abort rule (R174). RESULT and FAIL_REG are set, SEQ becomes IDLE, every other state change made
so far is kept. PHASE and STEP_I are discarded, which leaves them unread, since every turn sets them first (R132; log
entry 10). -/
def raise (e : Error) (s : State) : State :=
  { s with result := e.result, failReg := e.failReg, seq := .idle }

/-- Normal completion (R176). -/
def complete (s : State) : State :=
  { s with result := .ok, failReg := 0x00, seq := .idle }

/-- What is left to do when a command's pseudocode ends: completion, unless it was aborted or is held. -/
def Flow.finish : Flow → State
  | .on s => complete s
  | .off s => s

/-- SEQ at control point `p` of the command that is executing (R21). -/
def State.holdAt (p : Point) (s : State) : State :=
  match s.seq with
  | .idle => s
  | .busy w _ => { s with seq := .busy w p }

/-- `MemWrite(reg, 1, v)` at control point `p` (R12, R52): on OK the command goes on, on NACK it is aborted with
TransportError(reg); with no answer the sequencer stays at `p`. -/
def memWrite (p : Point) (w : RegWrite) (s : State) : Flow :=
  match s.transport.head with
  | .ok => .on (s.answered w .ok)
  | .nack => .off (raise (.transport w.reg) (s.answered w .nack))
  | .unanswered => .off (s.holdAt p)
  | .unissued => .off (s.holdAt p)

/-- A list of writes in order, each only after the one before was answered OK (R53). `pt` names the control point of the
k-th write, and the list begins at the `k`-th. -/
def memWrites (pt : Nat → Point) : Nat → List RegWrite → State → Flow
  | _, [], s => .on s
  | k, w :: ws, s =>
    match memWrite (pt k) w s with
    | .on t => memWrites pt (k + 1) ws t
    | .off t => .off t

/-- A dwell has elapsed: `DW(DWELL_MS)` is in the trace (R180). -/
def State.dwelt (s : State) : State :=
  { s with log := .dwell s.cfg.dwellMs :: s.log, dwells := s.dwells.drop 1 }

/-- `Dwell(ms)` with `ms = DWELL_MS` (R180): once the dwell has elapsed, `DW(ms)` is in the trace and the sequencer goes
on; until then it stays at the dwell. -/
def dwell (s : State) : Flow :=
  match s.dwells.head with
  | .elapses => .on s.dwelt
  | .holds => .off (s.holdAt .dwell)

/-- Acceptance of a command word (R36): BUSY becomes 1 and SEQ becomes `BUSY(cmd_word, first point)`. RESULT keeps its
old value (R32). -/
def accept (word : Word) (s : State) : State := { s with seq := .busy word (.wake 0) }

/-- Reset (R190, R191): every piece of the block's state takes its reset value (R39), where MULT_RST, ZERO_RST and SPR_RST
are parameters (R5), and nothing is emitted. The trace so far, the environment's scripts and the parameters are not the
block's; a strap setting takes effect here (R193). -/
def resetBlock (strap : Option DevAddr) (s : State) : State :=
  { State.reset with
    trimMult := s.cfg.lit.multRst, trimZero := s.cfg.lit.zeroRst, spr1 := s.cfg.lit.sprRst, spr2 := s.cfg.lit.sprRst
    log := s.log, host := s.host, transport := s.transport, dwells := s.dwells
    cfg := { s.cfg with devAddr := strap.getD s.cfg.devAddr } }

/-- The list position at which a control point resumes a command's own list of writes: a command that has not reached its
own list starts it at 0, and a dwell stands after the four writes of a step (R133). -/
def Point.index : Point → Nat
  | .wake _ => 0
  | .body k => k
  | .dwell => 4

/-- The command's own writes, from control point `p` on, where `list` gives the command's writes in the current state. -/
def bodyFrom (list : State → List RegWrite) (p : Point) (s : State) : Flow :=
  memWrites .body p.index ((list s).drop p.index) s

end Sys2Proof.Machine
end

