-- ==== Sys2Proof/Machine/ChipInit.lean ====
section
/-! DEFINITION. Chip initialisation: EnsureReady and INIT (40_chip_init.md, R100 to R106). -/

namespace Sys2Proof.Machine

/-- The all-channels registers, "ascending order" (R101; 92 D19). DESIGN CHOICE: an address above 0xFF, which only
other parameters than R5's can give, is taken modulo 256 (log entry 23). -/
def allChannelWrites (L : Literals) : List RegWrite :=
  (List.range (L.regAllLast + 1 - L.regAllFirst)).map fun j => ⟨BitVec.ofNat 8 (L.regAllFirst + j), 0x00⟩

/-- The writes of the wake sequence, six at the default parameters, in order: prescale, the all-channels registers, mode-1 (R101). -/
def wakeWrites (L : Literals) : List RegWrite :=
  [⟨L.regPrescale, L.prescaleVal⟩] ++ allChannelWrites L ++ [⟨L.regMode1, L.mode1Wake⟩]

/-- `CHIP_INIT <- 1` (R101): "at no other time" than after the last wake write was answered OK (R22). -/
def State.markReady (s : State) : State := { s with chipInit := true }

/-- EnsureReady (R101) from control point `p` of the command: nothing where CHIP_INIT is 1 or the command is already past
it; the wake sequence from its k-th write otherwise, and `CHIP_INIT <- 1` only after its last write (R102). -/
def ensureReady (p : Point) (s : State) : Flow :=
  match p with
  | .wake k =>
    if s.chipInit then .on s
    else (memWrites .wake k ((wakeWrites s.cfg.lit).drop k) s).andThen fun t => .on t.markReady
  | .body _ => .on s
  | .dwell => .on s

/-- A register-writing command from control point `p` (R103): EnsureReady first, then its own statements, then the end of
the command (R174, R176). -/
def registerCommand (own : Point → State → Flow) (p : Point) (s : State) : State :=
  ((ensureReady p s).andThen (own p)).finish

/-- INIT from control point `p` (R100). -/
def initFrom (p : Point) (s : State) : State := registerCommand (fun _ t => .on t) p s

/-- INIT (R100): EnsureReady alone. -/
def execInit (s : State) : Host.Outcome State Fault Refusal :=
  .next (initFrom (.wake 0) (accept (encode .init) s))

end Sys2Proof.Machine
end

