-- ==== Sys2Proof/Machine/Motor.lean ====
section
/-! DEFINITION. The motor encoder with its direction and channel multiplexer: MOTOR_ON and MOTOR_OFF (42_motor_encoder.md,
R120 to R126). -/

namespace Sys2Proof.Machine

/-- The base register of Motor(m): `0x28 + 8 * (m − 1)` (R55, R121). DESIGN CHOICE: an address that does not fit 8
bits, which only parameters other than R5's can give, is taken modulo 256, as are those computed from it (log entry 23). -/
def motorBase (L : Literals) (m : Nat) : Byte := BitVec.ofNat 8 (L.motorBase0 + L.motorStride * (m - 1))

/-- The base register of a motor's second pair, `base + 4` (R55, R121). -/
def motorPairB (L : Literals) (m : Nat) : Byte := motorBase L m + BitVec.ofNat 8 L.pairOfs

/-- MotorDrive (R121): the on-pair takes the value `s * 40`, the off-pair is zeroed, always in this order; the direction
chooses which pair is which (R122). DESIGN CHOICE: where `v div 256` is no byte (SPEED_MAX, STEP_SPEED and SPEED_SCALE other
than R5's), the high byte is `v div 256` modulo 256 (log entry 23). -/
def motorDriveList (L : Literals) (m : Nat) (dir : Dir) (speed : Int) : List RegWrite :=
  let v := speed * L.speedScale
  let lo := lowByte v
  let hi := byteOf (fdiv v 256)
  let onR := match dir with
    | .forward => motorBase L m
    | .reverse => motorPairB L m
  let offR := match dir with
    | .forward => motorPairB L m
    | .reverse => motorBase L m
  [⟨onR, lo⟩, ⟨onR + 1, hi⟩, ⟨offR, 0⟩, ⟨offR + 1, 0⟩]

/-- MOTOR_ON from control point `p` (R120). -/
def motorOnFrom (m : Nat) (dir : Dir) (imm : Imm) (p : Point) (s : State) : State :=
  registerCommand (bodyFrom fun t => motorDriveList t.cfg.lit m dir (motorSpeed t.cfg.lit imm)) p s

/-- MOTOR_ON m<m>, dir, imm (R120): drive motor m in a direction at a speed. -/
def execMotorOn (m : Nat) (dir : Dir) (imm : Imm) (s : State) : Host.Outcome State Fault Refusal :=
  .next (motorOnFrom m dir imm (.wake 0) (accept (encode (.motorOn m dir imm)) s))

/-- MotorZero (R124), in the listed order (92 D20). -/
def motorZeroList (L : Literals) (m : Nat) : List RegWrite :=
  [⟨motorBase L m, 0⟩, ⟨motorBase L m + 1, 0⟩, ⟨motorPairB L m, 0⟩, ⟨motorPairB L m + 1, 0⟩]

/-- MOTOR_OFF from control point `p` (R123). -/
def motorOffFrom (m : Nat) (p : Point) (s : State) : State :=
  registerCommand (bodyFrom fun t => motorZeroList t.cfg.lit m) p s

/-- MOTOR_OFF m<m> (R123): zero all four registers of motor m. -/
def execMotorOff (m : Nat) (s : State) : Host.Outcome State Fault Refusal :=
  .next (motorOffFrom m (.wake 0) (accept (encode (.motorOff m)) s))

end Sys2Proof.Machine
end

