-- ==== Sys2Proof/Machine/Servo.lean ====
section
/-! DEFINITION. The servo PWM register encoder: SERVO_WRITE and SERVO_STOP (41_servo_encoder.md, R110 to R115). -/

namespace Sys2Proof.Machine

/-- The base register of Servo(n): `0x08 + 4 * (n − 1)` (R55, R110). DESIGN CHOICE: an address that does not fit 8
bits, which only parameters other than R5's can give, is taken modulo 256, that of the high byte too (log entry 23). -/
def servoBase (L : Literals) (n : Nat) : Byte := BitVec.ofNat 8 (L.servoBase0 + L.servoStride * (n - 1))

/-- The pwm value of ServoBytes (R111): `fdiv(deg * mult, 100) + zero`. -/
def servoPwm (deg mult zero : Int) : Int := fdiv (deg * mult) 100 + zero

/-- ServoBytes (R111), as `(lo, hi)`: the high byte is a single overflow bit, so a pwm of 512 or more wraps (R112). -/
def servoBytes (deg mult zero : Int) : Byte × Byte :=
  let pwm := servoPwm deg mult zero
  (lowByte pwm, if pwm > 255 then 1 else 0)

/-- The two writes of SERVO_WRITE (R110), with the trim the registers hold when the command executes (R115). -/
def servoWriteList (n : Nat) (imm : Imm) (s : State) : List RegWrite :=
  let bytes := servoBytes (servoAngle s.cfg.lit imm) s.trimMult.toNat s.trimZero.toNat
  [⟨servoBase s.cfg.lit n, bytes.1⟩, ⟨servoBase s.cfg.lit n + 1, bytes.2⟩]

/-- SERVO_WRITE from control point `p` (R110). -/
def servoWriteFrom (n : Nat) (imm : Imm) (p : Point) (s : State) : State :=
  registerCommand (bodyFrom (servoWriteList n imm)) p s

/-- SERVO_WRITE s<n>, imm (R110): drive servo n to an angle. -/
def execServoWrite (n : Nat) (imm : Imm) (s : State) : Host.Outcome State Fault Refusal :=
  .next (servoWriteFrom n imm (.wake 0) (accept (encode (.servoWrite n imm)) s))

/-- ServoZero (R114): the low byte first, then the high byte. -/
def servoZeroList (L : Literals) (n : Nat) : List RegWrite := [⟨servoBase L n, 0⟩, ⟨servoBase L n + 1, 0⟩]

/-- SERVO_STOP from control point `p` (R113). -/
def servoStopFrom (n : Nat) (p : Point) (s : State) : State :=
  registerCommand (bodyFrom fun t => servoZeroList t.cfg.lit n) p s

/-- SERVO_STOP s<n> (R113): remove the PWM signal from servo n. -/
def execServoStop (n : Nat) (s : State) : Host.Outcome State Fault Refusal :=
  .next (servoStopFrom n (.wake 0) (accept (encode (.servoStop n)) s))

end Sys2Proof.Machine
end

