-- ==== Sys2Proof/Machine/Stepper.lean ====
section
/-! DEFINITION. The four-phase stepper sequencer and the angle-to-step converter: STEP_TURN and STEP_ANGLE (43_stepper.md,
R130 to R141). -/

namespace Sys2Proof.Machine

/-- PHASE, an integer in {1,2,3,4} (R27). -/
def State.phaseNumber (s : State) : Nat := s.phase.toNat + 1

/-- The stepper's `first` motor, `2k − 1` (R131). -/
def firstMotor (k : Nat) : Nat := 2 * k - 1

/-- The stepper's `second` motor, `2k` (R131). -/
def secondMotor (k : Nat) : Nat := 2 * k

/-- PhaseMap(p, first, second), the phase table (R131), for p in 1..4. -/
def phaseMap (p first second : Nat) : Nat × Dir :=
  match p with
  | 1 => (first, .forward)
  | 2 => (second, .reverse)
  | 3 => (first, .reverse)
  | _ => (second, .forward)

/-- NextPhase(p, dir) (R134). -/
def nextPhase (p : Nat) (dir : Dir) : Nat :=
  match dir with
  | .forward => p % 4 + 1
  | .reverse => (p + 2) % 4 + 1

/-- The four writes of the current step (R133, R138): the phase's motor at STEP_SPEED in the phase's direction. -/
def stepWriteList (k : Nat) (s : State) : List RegWrite :=
  let active := phaseMap s.phaseNumber (firstMotor k) (secondMotor k)
  motorDriveList s.cfg.lit active.1 active.2 s.cfg.lit.stepSpeed

/-- `PHASE <- 1` and `STEP_I <- 0`, at the start of every turn (R132, R133). -/
def turnStart (s : State) : State := { s with phase := 0, stepI := 0 }

/-- `PHASE <- NextPhase(PHASE, dir)` and `STEP_I <- STEP_I + 1` (R133). -/
def turnAdvance (dir : Dir) (s : State) : State :=
  { s with phase := BitVec.ofNat 2 (nextPhase s.phaseNumber dir - 1), stepI := s.stepI + 1 }

/-- The loop of TurnSteps (R133) with `n` iterations left, entered at control point `p` of the current step: the step's
four writes, its dwell, the phase advance. A NACK ends the command before that step's dwell. -/
def turnLoop (k : Nat) (dir : Dir) : Nat → Point → State → Flow
  | 0, _, s => .on s
  | n + 1, p, s =>
    match (bodyFrom (stepWriteList k) p s).andThen dwell with
    | .off t => .off t
    | .on t => turnLoop k dir n (.body 0) (turnAdvance dir t)

/-- TurnSteps(k, dir, steps) from control point `p` (R133): a turn that has not begun starts at phase 1; a turn in
progress goes on while `STEP_I < steps`. -/
def turnSteps (k : Nat) (dir : Dir) (steps : Nat) (p : Point) (s : State) : Flow :=
  match p with
  | .wake _ => turnLoop k dir steps (.body 0) (turnStart s)
  | .body j => turnLoop k dir (steps - s.stepI.toNat) (.body j) s
  | .dwell => turnLoop k dir (steps - s.stepI.toNat) .dwell s

/-- STEP_TURN from control point `p` (R130). -/
def stepTurnFrom (k : Nat) (dir : Dir) (imm : Imm) (p : Point) (s : State) : State :=
  registerCommand (fun q t => turnSteps k dir (stepCount t.cfg.lit imm) q t) p s

/-- STEP_TURN t<k>, dir, imm (R130): turn stepper k by a number of steps. -/
def execStepTurn (k : Nat) (dir : Dir) (imm : Imm) (s : State) : Host.Outcome State Fault Refusal :=
  .next (stepTurnFrom k dir imm (.wake 0) (accept (encode (.stepTurn k dir imm)) s))

/-- `a / b` rounded as STEP_ROUND says, for `b > 0` (R136; 93 I3; any other `b`: log entry 24): toward zero, down, to nearest
with halves away from zero, or up. -/
def roundDiv (r : StepRound) (a b : Int) : Int :=
  match r with
  | .trunc => tdiv a b
  | .floor => fdiv a b
  | .nearest => a.sign * fdiv (2 * (a.natAbs : Int) + b) (2 * b)
  | .ceil => -fdiv (-a) b

/-- AngleToSteps(a, spr) (R136): the linear map from [1, 360], the clamp range of the angle, onto [1, spr]. The range's ends
are ANGLE_MIN and ANGLE_MAX (R5; log entry 7), so 359 is their distance. DESIGN CHOICE: where other parameters make that
distance 0 or negative, where R136 has 359 (R10: fdiv for `b > 0`, tdiv for `b != 0`; R170), the formulas are computed with Lean's total division: a
quotient of 0, so one step, where it is 0 (log entry 24). -/
def angleToSteps (L : Literals) (r : StepRound) (a spr : Int) : Int :=
  1 + roundDiv r ((a - L.angleMin) * (spr - 1)) (L.angleMax - L.angleMin)

/-- SPR[k], for k in 1..2 (R25). -/
def State.spr (s : State) (k : Nat) : BitVec 16 := if k = 1 then s.spr1 else s.spr2

/-- The step count of STEP_ANGLE in the current state (R135). -/
def angleSteps (k : Nat) (imm : Imm) (s : State) : Nat :=
  (angleToSteps s.cfg.lit s.cfg.stepRound (stepperAngle s.cfg.lit imm) (s.spr k).toNat).toNat

/-- STEP_ANGLE from control point `p` (R135). -/
def stepAngleFrom (k : Nat) (dir : Dir) (imm : Imm) (p : Point) (s : State) : State :=
  registerCommand (fun q t => turnSteps k dir (angleSteps k imm t) q t) p s

/-- STEP_ANGLE t<k>, dir, imm (R135): turn stepper k by an angle. -/
def execStepAngle (k : Nat) (dir : Dir) (imm : Imm) (s : State) : Host.Outcome State Fault Refusal :=
  .next (stepAngleFrom k dir imm (.wake 0) (accept (encode (.stepAngle k dir imm)) s))

end Sys2Proof.Machine
end

