-- ==== Sys2Proof/Machine/Trim.lean ====
section
/-! DEFINITION. Trim and configuration: SET_MULT, SET_ZERO, SET_SPR, REDUCE_PULSE and ALL_OFF (44_trim_config.md, R150 to
R159). -/

namespace Sys2Proof.Machine

/-- A setter from control point `p` (R103): it writes its register and no more, after EnsureReady only where SETTER_INIT
is true (93 I5). -/
def setterCommand (set : State → State) (p : Point) (s : State) : State :=
  ((if s.cfg.setterInit then ensureReady p s else .on s).andThen fun t => .on (set t)).finish

/-- SET_MULT from control point `p` (R150). -/
def setMultFrom (imm : Imm) (p : Point) (s : State) : State :=
  setterCommand (fun t => { t with trimMult := multValue t.cfg.lit (sext16 imm) }) p s

/-- SET_MULT imm (R150): set the servo multiplier. -/
def execSetMult (imm : Imm) (s : State) : Host.Outcome State Fault Refusal :=
  .next (setMultFrom imm (.wake 0) (accept (encode (.setMult imm)) s))

/-- SET_ZERO from control point `p` (R152). -/
def setZeroFrom (imm : Imm) (p : Point) (s : State) : State :=
  setterCommand (fun t => { t with trimZero := zeroValue t.cfg.lit (sext16 imm) }) p s

/-- SET_ZERO imm (R152): set the servo zero offset. -/
def execSetZero (imm : Imm) (s : State) : Host.Outcome State Fault Refusal :=
  .next (setZeroFrom imm (.wake 0) (accept (encode (.setZero imm)) s))

/-- `SPR[k] <- v`, for k in 1..2; the other stepper's register is unchanged (R154). -/
def State.setSprReg (k : Nat) (v : BitVec 16) (s : State) : State :=
  if k = 1 then { s with spr1 := v } else { s with spr2 := v }

/-- SET_SPR from control point `p` (R154). -/
def setSprFrom (k : Nat) (imm : Imm) (p : Point) (s : State) : State :=
  setterCommand (fun t => t.setSprReg k (sprValue t.cfg.lit imm)) p s

/-- SET_SPR t<k>, imm (R154): set the steps per revolution of stepper k. -/
def execSetSpr (k : Nat) (imm : Imm) (s : State) : Host.Outcome State Fault Refusal :=
  .next (setSprFrom k imm (.wake 0) (accept (encode (.setSpr k imm)) s))

/-- The multiplier that REDUCE_PULSE stores (R156): `clamp(113, 226, tdiv(226 * pct, 100))`. -/
def reducedMult (L : Literals) (pctClamp : Bool) (imm : Imm) : Byte :=
  multValue L (tdiv (L.reduceBase * reducePct L pctClamp imm) 100)

/-- REDUCE_PULSE from control point `p` (R156). -/
def reducePulseFrom (imm : Imm) (p : Point) (s : State) : State :=
  setterCommand (fun t => { t with trimMult := reducedMult t.cfg.lit t.cfg.pctClamp imm }) p s

/-- REDUCE_PULSE imm (R156): overwrite the multiplier from a percentage, literally as the source computes it (R157). -/
def execReducePulse (imm : Imm) (s : State) : Host.Outcome State Fault Refusal :=
  .next (reducePulseFrom imm (.wake 0) (accept (encode (.reducePulse imm)) s))

/-- The writes of ALL_OFF (R158, R159): MotorZero of every motor (1 to 4), then ServoZero of every servo
(1 to 8). -/
def allOffList (L : Literals) : List RegWrite :=
  (List.range L.nMotor).flatMap (fun j => motorZeroList L (j + 1)) ++
    (List.range L.nServo).flatMap (fun j => servoZeroList L (j + 1))

/-- ALL_OFF from control point `p` (R158). -/
def allOffFrom (p : Point) (s : State) : State :=
  registerCommand (bodyFrom fun t => allOffList t.cfg.lit) p s

/-- ALL_OFF (R158): turn off all four motors, then zero all eight servos. -/
def execAllOff (s : State) : Host.Outcome State Fault Refusal :=
  .next (allOffFrom (.wake 0) (accept (encode .allOff) s))

end Sys2Proof.Machine
end

