-- ==== Sys2Proof/Machine/Dispatch.lean ====
section
/-! DEFINITION. The meaning of each command (R77): one arm per row of spec/opcode_table.json. -/

namespace Sys2Proof.Machine

def exec (i : Instr) (s : State) : Host.Outcome State Fault Refusal :=
  match i with
  | .init => Sys2Proof.Machine.execInit s
  | .servoWrite n imm => Sys2Proof.Machine.execServoWrite n imm s
  | .servoStop n => Sys2Proof.Machine.execServoStop n s
  | .motorOn m dir imm => Sys2Proof.Machine.execMotorOn m dir imm s
  | .motorOff m => Sys2Proof.Machine.execMotorOff m s
  | .stepTurn k dir imm => Sys2Proof.Machine.execStepTurn k dir imm s
  | .stepAngle k dir imm => Sys2Proof.Machine.execStepAngle k dir imm s
  | .setMult imm => Sys2Proof.Machine.execSetMult imm s
  | .setZero imm => Sys2Proof.Machine.execSetZero imm s
  | .setSpr k imm => Sys2Proof.Machine.execSetSpr k imm s
  | .reducePulse imm => Sys2Proof.Machine.execReducePulse imm s
  | .allOff => Sys2Proof.Machine.execAllOff s

end Sys2Proof.Machine
end

