-- ==== Sys2Proof/Machine/Sequencer.lean ====
section
/-! DEFINITION. The sequencer (R6 (1), R21, R36, R190): accepting a word when IDLE, going on with a command that is held at
a control point, and reset at any time. -/

namespace Sys2Proof.Machine

/-- Going on with a command that SEQ holds at control point `p` (R21). -/
def resume (i : Instr) (p : Point) (s : State) : State :=
  match i with
  | .init => initFrom p s
  | .servoWrite n imm => servoWriteFrom n imm p s
  | .servoStop n => servoStopFrom n p s
  | .motorOn m dir imm => motorOnFrom m dir imm p s
  | .motorOff m => motorOffFrom m p s
  | .stepTurn k dir imm => stepTurnFrom k dir imm p s
  | .stepAngle k dir imm => stepAngleFrom k dir imm p s
  | .setMult imm => setMultFrom imm p s
  | .setZero imm => setZeroFrom imm p s
  | .setSpr k imm => setSprFrom k imm p s
  | .reducePulse imm => reducePulseFrom imm p s
  | .allOff => allOffFrom p s

/-- A command's own writes in the current state, in order; for a stepper command those of the current step. -/
def ownWrites (i : Instr) (s : State) : List RegWrite :=
  match i with
  | .init => []
  | .servoWrite n imm => servoWriteList n imm s
  | .servoStop n => servoZeroList s.cfg.lit n
  | .motorOn m dir imm => motorDriveList s.cfg.lit m dir (motorSpeed s.cfg.lit imm)
  | .motorOff m => motorZeroList s.cfg.lit m
  | .stepTurn k _ _ => stepWriteList k s
  | .stepAngle k _ _ => stepWriteList k s
  | .setMult _ => []
  | .setZero _ => []
  | .setSpr _ _ => []
  | .reducePulse _ => []
  | .allOff => allOffList s.cfg.lit

/-- The write at control point `p` of a command, if `p` is a write. -/
def writeAt (i : Instr) (p : Point) (s : State) : Option RegWrite :=
  match p with
  | .wake k => (wakeWrites s.cfg.lit)[k]?
  | .body k => (ownWrites i s)[k]?
  | .dwell => none

/-- The write at the control point where SEQ stands, if it is a write (R21). -/
def State.currentWrite (s : State) : Option RegWrite :=
  match s.seq with
  | .idle => none
  | .busy w p =>
    match decode s.cfg.lit w with
    | .ok i => writeAt i p s
    | .error _ => none

/-- The write port (R37): the write that is outstanding, `wr_valid = 1`, if there is one (R52 (1)). -/
def State.outstanding (s : State) : Option RegWrite :=
  match s.transport.head with
  | .unissued => none
  | .ok => s.currentWrite
  | .nack => s.currentWrite
  | .unanswered => s.currentWrite

/-- Reset while a command is executing (R190): the command is abandoned, an outstanding write is recorded LOST, and no
further write or dwell of it is issued. What the environment had in store for the abandoned control point is spent. -/
def abandon (strap : Option DevAddr) (s : State) : State :=
  match s.currentWrite, s.outstanding with
  | _, some w => resetBlock strap (s.answered w .lost)
  | some _, none => resetBlock strap { s with transport := s.transport.drop 1 }
  | none, none => resetBlock strap { s with dwells := s.dwells.drop 1 }

/-- A word is accepted (R36): a legal one is executed, an illegal one raises IllegalCommand before any other action
(R172). -/
def acceptWord (w : Word) (s : State) : Host.Outcome State Fault Refusal :=
  match decode s.cfg.lit w with
  | .ok i => exec i s
  | .error _ => .next (raise (.illegal w) (accept w s))

/-- SEQ is BUSY with word `w` at point `p`, and the environment may have answered since (R21, R52). -/
def resumeWord (w : Word) (p : Point) (s : State) : State :=
  match decode s.cfg.lit w with
  | .ok i => resume i p s
  | .error _ => raise (.illegal w) s

/-- The block while a command is executing: only `rst` reaches it (R199); nothing the host puts on the command channel
has any effect (R36). -/
def busyStep (w : Word) (p : Point) (s : State) : State :=
  match s.host with
  | [] => resumeWord w p s
  | .cmd _ :: _ => resumeWord w p s
  | .rst strap :: rest => abandon strap { s with host := rest }

/-- The block while it is IDLE: it waits, it is reset, or it accepts the word on the command channel (R36, R190). -/
def idleStep (s : State) : Host.Outcome State Fault Refusal :=
  match s.host with
  | [] => .next s
  | .rst strap :: rest => .next (resetBlock strap { s with host := rest })
  | .cmd w :: rest => acceptWord w { s with host := rest }

/-- Two instances of the list have one device address. -/
def twoShare : List DevAddr → Bool
  | [] => false
  | d :: ds => ds.contains d || twoShare ds

/-- R63: "Two instances with the same DEV_ADDR are not supported", whichever two of the instances on the transport they are. -/
def State.shared (s : State) : Bool := twoShare (s.cfg.devAddr :: s.cfg.others)

/-- One step: refused where two instances have the same DEV_ADDR (R63); otherwise the sequencer runs until the command
is over or is held by its environment (log entry 1). -/
def sequencerStep (s : State) : Host.Outcome State Fault Refusal :=
  if s.shared then .refused .sharedDevAddr
  else
    match s.seq with
    | .idle => idleStep s
    | .busy w p => .next (busyStep w p s)

/-- Putting a command word on the command channel of an IDLE block, before anything else the host does. -/
def State.present (w : Word) (s : State) : State :=
  { s with seq := .idle, host := .cmd w :: s.host }

end Sys2Proof.Machine
end

