-- ==== Sys2Proof/Machine/Step.lean ====
section
/-! DEFINITION. The step of the machine, and where a command word stands before it. -/

namespace Sys2Proof.Machine

/-- One step of KRB-SEQ. -/
def step (s : State) : Host.Outcome State Fault Refusal := sequencerStep s

/-- The state with a command word, numbered as the opcode table numbers it, on the command channel of the IDLE block, so
that the next step accepts and runs exactly it (R36; log entry 19). -/
def State.withFetchWord (s : State) (nbits w : Nat) : State :=
  s.present (BitVec.ofNat 32 (w % 2 ^ nbits))

end Sys2Proof.Machine
end

