-- ==== Sys2Proof/Machine/Image.lean ====
section
/-! DEFINITION. The register image of the external chip (R58): a derived view of the trace, "not state of the block" (R7,
R38). The block never reads it (R51). -/

namespace Sys2Proof.Machine

/-- What is known of one register of the chip: any byte, or one of the listed bytes (R58). -/
inductive RegImage where
  | any
  | among (vs : List Byte)
  deriving DecidableEq, Repr

/-- A failed write of `v`: "either the value it had before or the value `v` of the failed write" (R58). -/
def RegImage.orValue (v : Byte) : RegImage → RegImage
  | .any => .any
  | .among vs => if v ∈ vs then .among vs else .among (v :: vs)

/-- EXT(r) of the chip at device address `dev`, for a log with its newest event first (R58). -/
def extOfLog (dev r : Byte) : List Event → RegImage
  | [] => .any
  | .dwell _ :: es => extOfLog dev r es
  | .write d r' v resp :: es =>
    if d = dev ∧ r' = r then
      match resp with
      | .ok => .among [v]
      | .nack => (extOfLog dev r es).orValue v
      | .lost => (extOfLog dev r es).orValue v
    else extOfLog dev r es

/-- EXT(r), the register image at this point of the run (R58). -/
def State.ext (s : State) (r : Byte) : RegImage := extOfLog s.cfg.devAddr.byte r s.log

end Sys2Proof.Machine
end

