-- ==== Sys2Proof/Safety.lean ====
section
/-! DEFINITION. The terms that claims are stated in: what the environment must do for a command to end, the state a command
ends in, the spec's tables written out (for this hardware's parameters), and the invariant of every step. The machine itself
uses none of these. -/

namespace Sys2Proof.Machine

/-- The named literals and widths have this hardware's values, the "value" column of R5: the premise of a statement that
speaks of the spec's own numbers. -/
def State.Standard (s : State) : Prop := s.cfg.lit = lit

/-- Values of the parameters that fit what the spec fixes around them: the trim bounds lie in their bytes and the reset
values between them (R23, R24), SPR_RST fits SPR_WIDTH (R25), the angle's range is not a point (R136), there is an SPR for
each stepper (R25), every channel number fits the CH field and every command its word (R70, R72). This hardware's do. -/
def SoundLiterals (L : Literals) : Prop :=
  (0 ≤ L.multMin ∧ L.multMin ≤ L.multRst.toNat ∧ (L.multRst.toNat : Int) ≤ L.multMax ∧ L.multMax ≤ 255) ∧
    (0 ≤ L.zeroMin ∧ L.zeroMin ≤ L.zeroRst.toNat ∧ (L.zeroRst.toNat : Int) ≤ L.zeroMax ∧ L.zeroMax ≤ 255) ∧
    L.sprRst.toNat < 2 ^ L.sprWidth ∧ L.angleMin < L.angleMax ∧
    L.nServo ≤ 16 ∧ L.nMotor ≤ 16 ∧ L.nStepper ≤ 2 ∧ 32 ≤ L.cmdWidth

/-- The oracle's next `n` items are all `a`: the premise that the transport answers, or that dwells elapse (R204). -/
def Script.Yields {α : Type} (sc : Script α) (n : Nat) (a : α) : Prop := ∀ k, k < n → sc.at k = a

/-- The writes EnsureReady makes from this state (R101). -/
def wakePart (s : State) : List RegWrite := if s.chipInit then [] else wakeWrites s.cfg.lit

/-- The byte may be what the register holds (R58: any byte where the image is unknown). -/
def RegImage.Admits : RegImage → Byte → Prop
  | .any, _ => True
  | .among vs, b => b ∈ vs

/-- The state after the writes `ws`, all answered OK. -/
def State.wrote (ws : List RegWrite) (s : State) : State :=
  { s with
    log := (ws.map fun w => s.writeEvent w .ok).reverse ++ s.log
    transport := s.transport.drop ws.length }

/-- The state in which a register-writing command ends OK after the writes `ws` (R101, R176): everything that is not named
here is as before the command. -/
def State.completedAfter (ws : List RegWrite) (s : State) : State :=
  { s.wrote ws with seq := .idle, chipInit := true, result := .ok, failReg := 0x00 }

/-- The state in which a command is aborted when the write `w` after the OK writes `ws` is answered NACK (R174). -/
def State.abortedAt (ws : List RegWrite) (w : RegWrite) (s : State) : State :=
  { s with
    log := s.writeEvent w .nack :: ((ws.map fun v => s.writeEvent v .ok).reverse ++ s.log)
    transport := s.transport.drop (ws.length + 1)
    seq := .idle, result := .transport, failReg := w.reg }

/-- Commands that run EnsureReady whatever the parameters are (R103). -/
def writesRegisters : Instr → Bool
  | .init | .servoWrite _ _ | .servoStop _ | .motorOn _ _ _ | .motorOff _ => true
  | .stepTurn _ _ _ | .stepAngle _ _ _ | .allOff => true
  | .setMult _ | .setZero _ | .setSpr _ _ | .reducePulse _ => false

/-- The two stepper commands. -/
def turns : Instr → Bool
  | .stepTurn _ _ _ | .stepAngle _ _ _ => true
  | .init | .servoWrite _ _ | .servoStop _ | .motorOn _ _ _ | .motorOff _ => false
  | .setMult _ | .setZero _ | .setSpr _ _ | .reducePulse _ | .allOff => false

/-- The number of steps of a stepper command in this state (R130, R135); 0 for every other command. -/
def stepTotal (i : Instr) (s : State) : Nat :=
  match i with
  | .stepTurn _ _ imm => imm.toNat % 2 ^ s.cfg.lit.stepsWidth
  | .stepAngle k _ imm => angleSteps k imm s
  | .init | .servoWrite _ _ | .servoStop _ | .motorOn _ _ _ | .motorOff _ => 0
  | .setMult _ | .setZero _ | .setSpr _ _ | .reducePulse _ | .allOff => 0

/-- The registers of Servo(n) (R55). -/
def servoRegisters (n : Nat) : List Byte :=
  [BitVec.ofNat 8 (0x08 + 4 * (n - 1)), BitVec.ofNat 8 (0x09 + 4 * (n - 1))]

/-- The registers of Motor(m) (R55, R125). -/
def motorRegisters (m : Nat) : List Byte :=
  [BitVec.ofNat 8 (0x28 + 8 * (m - 1)), BitVec.ofNat 8 (0x29 + 8 * (m - 1)),
   BitVec.ofNat 8 (0x2C + 8 * (m - 1)), BitVec.ofNat 8 (0x2D + 8 * (m - 1))]

/-- The registers that ALL_OFF zeroes, in its order (R159). -/
def allOffRegisters : List Byte :=
  [0x28, 0x29, 0x2C, 0x2D, 0x30, 0x31, 0x34, 0x35, 0x38, 0x39, 0x3C, 0x3D, 0x40, 0x41, 0x44, 0x45,
   0x08, 0x09, 0x0C, 0x0D, 0x10, 0x11, 0x14, 0x15, 0x18, 0x19, 0x1C, 0x1D, 0x20, 0x21, 0x24, 0x25]

/-- The registers of the wake sequence (R101). -/
def wakeRegisters : List Byte := [0xFE, 0xFA, 0xFB, 0xFC, 0xFD, 0x00]

/-- The registers a command writes itself, beside those of EnsureReady (R55, R125, R140, R159). -/
def ownRegisters : Instr → List Byte
  | .servoWrite n _ | .servoStop n => servoRegisters n
  | .motorOn m _ _ | .motorOff m => motorRegisters m
  | .stepTurn k _ _ | .stepAngle k _ _ => motorRegisters (2 * k - 1) ++ motorRegisters (2 * k)
  | .allOff => allOffRegisters
  | .init | .setMult _ | .setZero _ | .setSpr _ _ | .reducePulse _ => []

/-- The addresses that R56 lists as never written. -/
def neverWritten (r : Byte) : Prop :=
  (0x01 ≤ r ∧ r ≤ 0x07) ∨ r ∈ ([0x0A, 0x0B, 0x0E, 0x0F, 0x12, 0x13, 0x16, 0x17, 0x1A, 0x1B, 0x1E, 0x1F, 0x22, 0x23,
    0x26, 0x27, 0x2A, 0x2B, 0x2E, 0x2F, 0x32, 0x33, 0x36, 0x37, 0x3A, 0x3B, 0x3E, 0x3F, 0x42, 0x43] : List Byte) ∨
    (0x46 ≤ r ∧ r ≤ 0xF9) ∨ r = 0xFF

/-- The values the block can put in a register of the map (R55: the bytes of EnsureReady; R111: a servo's high byte is 0
or 1; R121: a motor's high byte lies in 0..15). -/
def valueAllowed (r v : Byte) : Prop :=
  (r = 0x00 → v = 0x01) ∧ (r = 0xFE → v = 0x85) ∧ (0xFA ≤ r ∧ r ≤ 0xFD → v = 0x00) ∧
    (r ∈ ([0x09, 0x0D, 0x11, 0x15, 0x19, 0x1D, 0x21, 0x25] : List Byte) → v ≤ 1) ∧
    (r ∈ ([0x29, 0x2D, 0x31, 0x35, 0x39, 0x3D, 0x41, 0x45] : List Byte) → v ≤ 15)

/-- A write event of this instance that the register map allows (R12, R55, R56). -/
def Event.Mapped (dev : Byte) : Event → Prop
  | .write d r v _ => d = dev ∧ ¬ neverWritten r ∧ valueAllowed r v
  | .dwell _ => True

/-- The event is a write. -/
def Event.isWrite : Event → Bool
  | .write _ _ _ _ => true
  | .dwell _ => false

/-- The event is a dwell. -/
def Event.isDwell : Event → Bool
  | .write _ _ _ _ => false
  | .dwell _ => true

/-- The register of a write event. -/
def Event.register? : Event → Option Byte
  | .write _ r _ _ => some r
  | .dwell _ => none

/-- The events that were emitted between two states of a run (R7), oldest first. -/
def newEvents (s t : State) : List Event := t.trace.drop s.trace.length

/-- "Step i of a turn, counting from 0, uses phase …" (R134). -/
def turnPhase (dir : Dir) (i : Nat) : Nat :=
  match dir with
  | .forward => i % 4 + 1
  | .reverse => (4 - i % 4) % 4 + 1

/-- The table of R138: the four writes of stepper k's step at phase p, written out. -/
def stepRow (k p : Nat) : List RegWrite :=
  match k, p with
  | 1, 1 => [⟨0x28, 160⟩, ⟨0x29, 15⟩, ⟨0x2C, 0⟩, ⟨0x2D, 0⟩]
  | 1, 2 => [⟨0x34, 160⟩, ⟨0x35, 15⟩, ⟨0x30, 0⟩, ⟨0x31, 0⟩]
  | 1, 3 => [⟨0x2C, 160⟩, ⟨0x2D, 15⟩, ⟨0x28, 0⟩, ⟨0x29, 0⟩]
  | 1, 4 => [⟨0x30, 160⟩, ⟨0x31, 15⟩, ⟨0x34, 0⟩, ⟨0x35, 0⟩]
  | 2, 1 => [⟨0x38, 160⟩, ⟨0x39, 15⟩, ⟨0x3C, 0⟩, ⟨0x3D, 0⟩]
  | 2, 2 => [⟨0x44, 160⟩, ⟨0x45, 15⟩, ⟨0x40, 0⟩, ⟨0x41, 0⟩]
  | 2, 3 => [⟨0x3C, 160⟩, ⟨0x3D, 15⟩, ⟨0x38, 0⟩, ⟨0x39, 0⟩]
  | 2, 4 => [⟨0x40, 160⟩, ⟨0x41, 15⟩, ⟨0x44, 0⟩, ⟨0x45, 0⟩]
  | _, _ => []

/-- The four writes of stepper k's step at phase p (R131, R133): MotorDrive of the phase's motor at STEP_SPEED. At the default
parameters this is the table `stepRow`. -/
def stepWritesAt (L : Literals) (k p : Nat) : List RegWrite :=
  let active := phaseMap p (2 * k - 1) (2 * k)
  motorDriveList L active.1 active.2 L.stepSpeed

/-- The events of a turn of `n` steps, all answered OK (R133, R138): each step is its four writes and one dwell. -/
def turnEvents (s : State) (k : Nat) (dir : Dir) (n : Nat) : List Event :=
  (List.range n).flatMap fun i =>
    ((stepWritesAt s.cfg.lit k (turnPhase dir i)).map fun w => s.writeEvent w .ok) ++ [.dwell s.cfg.dwellMs]

/-- The state in which a stepper command of `n` steps ends OK (R133, R137): PHASE and STEP_I as the loop left them (log
entry 10), everything that is not named as before the command. -/
def State.turned (k : Nat) (dir : Dir) (n : Nat) (s : State) : State :=
  { s with
    seq := .idle, chipInit := true, result := .ok, failReg := 0x00
    phase := BitVec.ofNat 2 (turnPhase dir n - 1)
    stepI := BitVec.ofNat 17 n
    log := (((wakePart s).map fun w => s.writeEvent w .ok) ++ turnEvents s k dir n).reverse ++ s.log
    transport := s.transport.drop ((wakePart s).length + 4 * n)
    dwells := s.dwells.drop n }

/-- The state in which a stepper command is aborted when, after `n` whole steps, the write `v` of the next step after its OK
writes `vs` is answered NACK (R133, R174): no dwell follows, CHIP_INIT is 1 because EnsureReady completed, and PHASE and
STEP_I are as the loop left them (log entry 10). -/
def State.turnAborted (k : Nat) (dir : Dir) (n : Nat) (vs : List RegWrite) (v : RegWrite) (s : State) : State :=
  { s with
    seq := .idle, chipInit := true, result := .transport, failReg := v.reg
    phase := BitVec.ofNat 2 (turnPhase dir n - 1)
    stepI := BitVec.ofNat 17 n
    log := s.writeEvent v .nack ::
      ((((wakePart s).map fun w => s.writeEvent w .ok) ++ turnEvents s k dir n ++ vs.map fun w => s.writeEvent w .ok).reverse
        ++ s.log)
    transport := s.transport.drop ((wakePart s).length + 4 * n + vs.length + 1)
    dwells := s.dwells.drop n }

/-- The command's word can stand at this control point (R21): the wake sequence only while CHIP_INIT is 0 and only for a
command that runs it, a write of its own list that exists, a turn's points only while `STEP_I < steps` (R133). -/
def PointOk (i : Instr) (p : Point) (s : State) : Prop :=
  match p with
  | .wake k => s.chipInit = false ∧ k < (wakeWrites s.cfg.lit).length ∧ (writesRegisters i = true ∨ s.cfg.setterInit = true)
  | .body k => s.chipInit = true ∧ k < (ownWrites i s).length ∧ (turns i = true → s.stepI.toNat < stepTotal i s)
  | .dwell => s.chipInit = true ∧ turns i = true ∧ s.stepI.toNat < stepTotal i s

/-- R26, with the bounds as the parameters give them, and that SEQ is IDLE or stands at a control point of a legal command
(R21). -/
def State.Inv (s : State) : Prop :=
  SoundLiterals s.cfg.lit ∧
    (s.cfg.lit.multMin ≤ s.trimMult.toNat ∧ (s.trimMult.toNat : Int) ≤ s.cfg.lit.multMax) ∧
    (s.cfg.lit.zeroMin ≤ s.trimZero.toNat ∧ (s.trimZero.toNat : Int) ≤ s.cfg.lit.zeroMax) ∧
    (s.spr1.toNat < 2 ^ s.cfg.lit.sprWidth ∧ s.spr2.toNat < 2 ^ s.cfg.lit.sprWidth) ∧
    ∀ w p, s.seq = .busy w p → ∃ i, decode s.cfg.lit w = .ok i ∧ PointOk i p s

/-- The host is not asserting `rst`. -/
def State.NoReset (s : State) : Prop := ∀ strap rest, s.host ≠ .rst strap :: rest

/-- The environment holds the sequencer at control point `p`: no answer to the write, or a dwell that has not elapsed. -/
def HeldBy (p : Point) (s : State) : Prop :=
  match p with
  | .wake _ => s.transport.head = .unanswered ∨ s.transport.head = .unissued
  | .body _ => s.transport.head = .unanswered ∨ s.transport.head = .unissued
  | .dwell => s.dwells.head = .holds

/-- Every block register at its reset value (R39): MULT_RST, ZERO_RST and SPR_RST are parameters (R5). -/
def State.AtReset (s : State) : Prop :=
  s.seq = .idle ∧ s.chipInit = false ∧ s.trimMult = s.cfg.lit.multRst ∧ s.trimZero = s.cfg.lit.zeroRst ∧
    s.spr1 = s.cfg.lit.sprRst ∧ s.spr2 = s.cfg.lit.sprRst ∧ s.phaseNumber = 1 ∧ s.stepI = 0 ∧ s.status = 0x00000000

end Sys2Proof.Machine
end

