-- ==== Sys2Proof/Certificates/Slice0/Obligations.lean ====
section
/-! DEFINITION. The statements for the provers: what the numbered rules of the spec say the block does. -/

open Sys2Proof Sys2Proof.Machine

/-! ### Reset, the host-visible words and the step -/

/-- R39: every piece of state and its value after reset; the chip's registers are unknown before the first write; and every
later reset restores the same values. MULT_RST, ZERO_RST and SPR_RST are parameters (R5); the numbers are this hardware's. -/
def Obligations.ResetLeavesTheStatedValues : Prop :=
  State.reset.AtReset ∧ State.reset.Standard ∧ (∀ r, State.reset.ext r = .any) ∧
    (∀ strap s, (resetBlock strap s).AtReset) ∧
    ∀ s : State, s.Standard → s.AtReset →
      s.trimMult = 226 ∧ s.trimZero = 0x66 ∧ s.spr1 = 200 ∧ s.spr2 = 200 ∧ s.cfg0 = 0x000066E2 ∧ s.cfg1 = 0x00C800C8

/-- R5: each parameter is a field of the configuration, whose default is its "value" column; DEV_ADDR has none. -/
def Obligations.ParametersHaveTheStatedDefaults : Prop :=
  ∀ d : DevAddr,
    let c : Config := { devAddr := d }
    c.dwellMs = 20 ∧ c.stepRound = .trunc ∧
    (c.lit.nServo = 8 ∧ c.lit.nMotor = 4 ∧ c.lit.nStepper = 2) ∧
    (c.lit.regMode1 = 0x00 ∧ c.lit.mode1Wake = 0x01 ∧ c.lit.regPrescale = 0xFE ∧ c.lit.prescaleVal = 0x85) ∧
    (c.lit.regAllFirst = 0xFA ∧ c.lit.regAllLast = 0xFD ∧ c.lit.servoBase0 = 0x08 ∧ c.lit.servoStride = 4) ∧
    (c.lit.motorBase0 = 0x28 ∧ c.lit.motorStride = 8 ∧ c.lit.pairOfs = 4 ∧ c.lit.degMax = 180) ∧
    (c.lit.multMin = 113 ∧ c.lit.multMax = 226 ∧ c.lit.multRst = 226) ∧
    (c.lit.zeroMin = 0x66 ∧ c.lit.zeroMax = 0xCC ∧ c.lit.zeroRst = 0x66) ∧
    (c.lit.speedMax = 100 ∧ c.lit.speedScale = 40 ∧ c.lit.stepSpeed = 100) ∧
    (c.lit.angleMin = 1 ∧ c.lit.angleMax = 360 ∧ c.lit.sprRst = 200) ∧
    (c.lit.sprWidth = 16 ∧ c.lit.stepsWidth = 16 ∧ c.lit.cmdWidth = 32 ∧ c.lit.pctMax = 50 ∧ c.lit.reduceBase = 226) ∧
    (c.devAddr.byte = 0x6C ∨ c.devAddr.byte = 0x6D ∨ c.devAddr.byte = 0x6E ∨ c.devAddr.byte = 0x6F)

/-- R31, with the whole layout of R29: STATUS bit by bit, for every state, with the four codes of RESULT (R32, R170). -/
def Obligations.StatusWordFields : Prop :=
  ∀ s : State,
    s.status.getLsbD 0 = s.busy ∧ s.status.getLsbD 1 = s.chipInit ∧
    (s.result = .none → s.status.extractLsb' 2 2 = 0b00) ∧ (s.result = .ok → s.status.extractLsb' 2 2 = 0b01) ∧
    (s.result = .transport → s.status.extractLsb' 2 2 = 0b10) ∧ (s.result = .illegal → s.status.extractLsb' 2 2 = 0b11) ∧
    s.status.extractLsb' 4 4 = 0 ∧ s.status.extractLsb' 8 8 = s.failReg ∧ s.status.extractLsb' 16 16 = 0 ∧
    (s.busy = true ↔ s.seq ≠ .idle) ∧ (s.cmdReady = true ↔ s.seq = .idle)

/-- R34 and R35: the read-only words CFG0 and CFG1, for every state and at reset. -/
def Obligations.ConfigurationWordFields : Prop :=
  (∀ s : State,
    s.cfg0.extractLsb' 0 8 = s.trimMult ∧ s.cfg0.extractLsb' 8 8 = s.trimZero ∧ s.cfg0.extractLsb' 16 16 = 0 ∧
    s.cfg1.extractLsb' 0 16 = s.spr1 ∧ s.cfg1.extractLsb' 16 16 = s.spr2) ∧
  State.reset.cfg0 = 0x000066E2 ∧ State.reset.cfg1 = 0x00C800C8

/-- R21, R36: an IDLE block accepts the word on the command channel, and the step runs the decoded command, with the word
taken off the channel. -/
def Obligations.StepRunsTheDecodedCommand : Prop :=
  ∀ (s : State) (w : Word) (rest : List HostInput) (i : Instr),
    s.shared = false → s.seq = .idle → s.host = .cmd w :: rest → decode s.cfg.lit w = .ok i →
      step s = exec i { s with host := rest }

/-- R172: a word that is no command, for this hardware one that no row of the opcode map covers (R78), raises IllegalCommand:
RESULT = ILLEGAL, FAIL_REG = 0, and nothing else changes but the word taken off the channel. Which words are no
command under other widths and channel counts than R5's is the model's choice (log entry 7). -/
def Obligations.IllegalWordRaisesIllegalCommand : Prop :=
  ∀ (s : State) (w : Word) (rest : List HostInput),
    s.shared = false → s.seq = .idle → s.host = .cmd w :: rest →
    ((∀ i, decode s.cfg.lit w ≠ .ok i) ∨ (s.Standard ∧ ∀ r ∈ rows, r.covers w = false)) →
      step s = .next { s with host := rest, seq := .idle, result := .illegal, failReg := 0x00 }

/-- R63: a configuration in which two instances, whichever they are, have one DEV_ADDR is refused, and nothing else is. -/
def Obligations.SharedDeviceAddressIsRefused : Prop :=
  ∀ s : State,
    (step s = .refused .sharedDevAddr ↔ ¬ (s.cfg.devAddr :: s.cfg.others).Nodup) ∧
    ((s.cfg.devAddr :: s.cfg.others).Nodup → ∃ t, step s = .next t)

/-! ### Encoding -/

/-- R77, R78: under this hardware's parameters a word decodes to a command exactly when `(w AND mask) = match` for a row of the opcode map, and at most one
row matches. -/
def Obligations.LegalExactlyWhenARowMatches : Prop :=
  ∀ w : Word,
    ((∃ i, decode lit w = .ok i) ↔ ∃ r ∈ rows, r.covers w = true) ∧
    ∀ r ∈ rows, ∀ r' ∈ rows, r.covers w = true → r'.covers w = true → r = r'

/-- R80 with R72 to R75: decoding the word of a command gives the command back, with every operand, whatever the channel counts
are that fit the CH field.
Other channel counts than R5's, and other widths of the word: log entry 7. -/
def Obligations.DecodeOfEncodeIsTheCommand : Prop :=
  ∀ (L : Literals) (i : Instr), L.nServo ≤ 16 → L.nMotor ≤ 16 → L.nStepper ≤ 16 → 32 ≤ L.cmdWidth →
    i.WellFormed L → decode L (encode i) = .ok i

/-- R72, R78: a legal word is the encoding of exactly the command it decodes to, and that command's channel exists.
Other channel counts than R5's, and other widths of the word: log entry 7. -/
def Obligations.EncodeOfDecodeIsTheWord : Prop :=
  ∀ (L : Literals) (w : Word) (i : Instr), decode L w = .ok i → i.WellFormed L ∧ encode i = w

/-- 30_encoding.md section 5: the 23 words written out in the spec decode as it says. That an illegal word also names the rule
it breaks is the model's own (log entry 15). -/
def Obligations.SpecWordsDecode : Prop :=
  decode lit 0x10000000 = .ok .init ∧ decode lit 0x2000005A = .ok (.servoWrite 1 90) ∧
  decode lit 0x2700FFFB = .ok (.servoWrite 8 (BitVec.ofInt 16 (-5))) ∧ decode lit 0x32000000 = .ok (.servoStop 3) ∧
  decode lit 0x40000064 = .ok (.motorOn 1 .forward 100) ∧ decode lit 0x41800032 = .ok (.motorOn 2 .reverse 50) ∧
  decode lit 0x53000000 = .ok (.motorOff 4) ∧ decode lit 0x60000004 = .ok (.stepTurn 1 .forward 4) ∧
  decode lit 0x6180FFFF = .ok (.stepTurn 2 .reverse 65535) ∧ decode lit 0x7180005A = .ok (.stepAngle 2 .reverse 90) ∧
  decode lit 0x8000012C = .ok (.setMult 300) ∧ decode lit 0x9000FFFF = .ok (.setZero (BitVec.ofInt 16 (-1))) ∧
  decode lit 0xA1000030 = .ok (.setSpr 2 48) ∧ decode lit 0xB0000019 = .ok (.reducePulse 25) ∧
  decode lit 0xC0000000 = .ok .allOff ∧ decode lit 0x00000000 = .error .opcode ∧
  decode lit 0x28000000 = .error .channel ∧ decode lit 0x44000064 = .error .channel ∧
  decode lit 0x62000004 = .error .channel ∧ decode lit 0x10000001 = .error .immediate ∧
  decode lit 0x2080005A = .error .direction ∧ decode lit 0x40010064 = .error .reserved ∧
  decode lit 0xD0000000 = .error .opcode

/-! ### Chip initialisation -/

/-- R101 (and R100): with every write answered OK, INIT makes the wake writes in the rule's order and sets CHIP_INIT, or does
nothing when CHIP_INIT is 1; nothing else changes but the outcome. At this hardware's parameters they are the rule's six. Values and addresses that
other parameters than R5's put outside 0..255 are taken modulo 256: log entry 23. -/
def Obligations.InitRunsTheWakeSequence : Prop :=
  ∀ s : State,
    (s.chipInit = false → s.transport.Yields (wakeWrites s.cfg.lit).length .ok →
      exec .init s = .next (s.completedAfter (wakeWrites s.cfg.lit))) ∧
    (s.chipInit = true →
      exec .init s = .next { s with seq := .idle, result := .ok, failReg := 0x00 }) ∧
    (s.Standard → wakeWrites s.cfg.lit =
      [⟨0xFE, 0x85⟩, ⟨0xFA, 0x00⟩, ⟨0xFB, 0x00⟩, ⟨0xFC, 0x00⟩, ⟨0xFD, 0x00⟩, ⟨0x00, 0x01⟩])

/-- R102, R103, R174: in every command that runs EnsureReady (a setter only where SETTER_INIT is true, 93 I5), a NACK on the k-th
wake write ends the command there, CHIP_INIT stays 0, and nothing but the emitted writes and the outcome changes: a setter's
register stays unwritten (log entry 8). That the two stepper commands leave PHASE and STEP_I as they were, where R174 says only
that they are discarded, is the model's choice (log entry 10). -/
def Obligations.WakeNackAbortsAndLeavesChipUninitialised : Prop :=
  ∀ (i : Instr) (s : State) (vs us : List RegWrite) (v : RegWrite),
    writesRegisters i = true ∨ s.cfg.setterInit = true → wakePart s = vs ++ v :: us → s.transport.Yields vs.length .ok →
    s.transport.at vs.length = .nack →
      exec i s = .next (s.abortedAt vs v) ∧ (s.abortedAt vs v).chipInit = false

/-- R22: no command clears CHIP_INIT, only a reset does; and a step that sets it has the mode-1 write answered OK in its
trace. -/
def Obligations.ChipInitIsSetOnlyByTheWakeSequence : Prop :=
  ∀ s t : State, s.Inv → s.NoReset → step s = .next t →
    (s.chipInit = true → t.chipInit = true) ∧
    (s.chipInit = false → t.chipInit = true →
      Event.write s.cfg.devAddr.byte s.cfg.lit.regMode1 s.cfg.lit.mode1Wake .ok ∈ newEvents s t)

/-- R105: once CHIP_INIT is 1, no command writes a register of the wake sequence again, whatever the transport answers. -/
def Obligations.NoWakeWriteOnceInitialised : Prop :=
  ∀ (i : Instr) (s t : State), s.Standard → i.WellFormed s.cfg.lit → s.chipInit = true → exec i s = .next t →
    ∀ e ∈ newEvents s t, ∀ r, e.register? = some r → r ∉ wakeRegisters

/-! ### Servo -/

/-- R110, R111: SERVO_WRITE on any servo, from any trim, with every write answered OK: the wake writes if needed, then the low
byte and the overflow bit of `fdiv(deg × mult, 100) + zero`, for every value of the parameters it reads (here 180, 0x08 and 4).
Other channel counts than R5's: log entry 7. Values and addresses that
other parameters than R5's put outside 0..255 are taken modulo 256: log entry 23. -/
def Obligations.ServoWriteSendsTheEncodedAngle : Prop :=
  ∀ (n : Nat) (imm : Imm) (s : State), 1 ≤ n → n ≤ s.cfg.lit.nServo →
    s.transport.Yields ((wakePart s).length + 2) .ok →
      let deg : Int := min s.cfg.lit.degMax (max 0 imm.toInt)
      let pwm : Int := deg * s.trimMult.toNat / 100 + s.trimZero.toNat
      let base : Byte := BitVec.ofNat 8 (s.cfg.lit.servoBase0 + s.cfg.lit.servoStride * (n - 1))
      exec (.servoWrite n imm) s = .next (s.completedAfter (wakePart s ++
        [⟨base, BitVec.ofInt 8 (pwm % 256)⟩, ⟨base + 1, if pwm > 255 then 1 else 0⟩]))

/-- R111: ServoBytes over the whole range of its operands, with the stated bounds of pwm. -/
def Obligations.ServoBytesFormulaAndBounds : Prop :=
  ∀ deg mult zero : Int, 0 ≤ deg → deg ≤ 180 → 113 ≤ mult → mult ≤ 226 → 102 ≤ zero → zero ≤ 204 →
    let pwm : Int := deg * mult / 100 + zero
    102 ≤ pwm ∧ pwm ≤ 610 ∧ ((servoBytes deg mult zero).1.toNat : Int) = pwm % 256 ∧
      (servoBytes deg mult zero).2.toNat = (if pwm > 255 then 1 else 0)

/-- R112: the 9-bit wrap, exactly when pwm is 512 or more, and the thresholds the rule names. -/
def Obligations.ServoNineBitWrap : Prop :=
  ∀ deg mult zero : Int, 0 ≤ deg → deg ≤ 180 → 113 ≤ mult → mult ≤ 226 → 102 ≤ zero → zero ≤ 204 →
    let pwm : Int := deg * mult / 100 + zero
    let lo : Int := (servoBytes deg mult zero).1.toNat
    let hi : Int := (servoBytes deg mult zero).2.toNat
    (hi = 0 ∨ hi = 1) ∧
    (pwm ≥ 512 → hi = 1 ∧ lo = pwm - 512 ∧ 256 * hi + lo = pwm - 256) ∧
    (pwm < 512 → 256 * hi + lo = pwm) ∧
    (pwm ≥ 512 → zero > 102) ∧
    (mult = 226 → deg = 180 → (pwm ≥ 512 ↔ zero ≥ 106)) ∧
    (mult = 226 → zero = 204 → (pwm ≥ 512 ↔ deg ≥ 137))

/-- R113, R114: SERVO_STOP writes 0 to the servo's low and then high register, and changes nothing else.
Other channel counts than R5's: log entry 7. Values and addresses that
other parameters than R5's put outside 0..255 are taken modulo 256: log entry 23. -/
def Obligations.ServoStopZeroesThePair : Prop :=
  ∀ (n : Nat) (s : State), 1 ≤ n → n ≤ s.cfg.lit.nServo →
    s.transport.Yields ((wakePart s).length + 2) .ok →
      let base : Byte := BitVec.ofNat 8 (s.cfg.lit.servoBase0 + s.cfg.lit.servoStride * (n - 1))
      exec (.servoStop n) s = .next (s.completedAfter (wakePart s ++ [⟨base, 0⟩, ⟨base + 1, 0⟩]))

/-! ### Motor -/

/-- R122: the direction multiplexer's table, row by row, for every speed, at this hardware's parameters. -/
def Obligations.MotorDirectionMultiplexerTable : Prop :=
  ∀ speed : Int, 0 ≤ speed → speed ≤ 100 →
    let lo : Byte := BitVec.ofInt 8 (speed * 40 % 256)
    let hi : Byte := BitVec.ofInt 8 (speed * 40 / 256)
    motorDriveList lit 1 .forward speed = [⟨0x28, lo⟩, ⟨0x29, hi⟩, ⟨0x2C, 0⟩, ⟨0x2D, 0⟩] ∧
    motorDriveList lit 1 .reverse speed = [⟨0x2C, lo⟩, ⟨0x2D, hi⟩, ⟨0x28, 0⟩, ⟨0x29, 0⟩] ∧
    motorDriveList lit 2 .forward speed = [⟨0x30, lo⟩, ⟨0x31, hi⟩, ⟨0x34, 0⟩, ⟨0x35, 0⟩] ∧
    motorDriveList lit 2 .reverse speed = [⟨0x34, lo⟩, ⟨0x35, hi⟩, ⟨0x30, 0⟩, ⟨0x31, 0⟩] ∧
    motorDriveList lit 3 .forward speed = [⟨0x38, lo⟩, ⟨0x39, hi⟩, ⟨0x3C, 0⟩, ⟨0x3D, 0⟩] ∧
    motorDriveList lit 3 .reverse speed = [⟨0x3C, lo⟩, ⟨0x3D, hi⟩, ⟨0x38, 0⟩, ⟨0x39, 0⟩] ∧
    motorDriveList lit 4 .forward speed = [⟨0x40, lo⟩, ⟨0x41, hi⟩, ⟨0x44, 0⟩, ⟨0x45, 0⟩] ∧
    motorDriveList lit 4 .reverse speed = [⟨0x44, lo⟩, ⟨0x45, hi⟩, ⟨0x40, 0⟩, ⟨0x41, 0⟩]

/-- R120, R121: MOTOR_ON on any motor, direction and operand, with every write answered OK, for every value of the parameters
it reads (here 100, 40, 0x28, 8 and 4).
Other channel counts than R5's: log entry 7. Values and addresses that
other parameters than R5's put outside 0..255 are taken modulo 256: log entry 23. -/
def Obligations.MotorOnDrivesOnePairAndZeroesTheOther : Prop :=
  ∀ (m : Nat) (dir : Dir) (imm : Imm) (s : State), 1 ≤ m → m ≤ s.cfg.lit.nMotor →
    s.transport.Yields ((wakePart s).length + 4) .ok →
      let v : Int := min s.cfg.lit.speedMax (max 0 imm.toInt) * s.cfg.lit.speedScale
      let base : Byte := BitVec.ofNat 8 (s.cfg.lit.motorBase0 + s.cfg.lit.motorStride * (m - 1))
      let pairB : Byte := base + BitVec.ofNat 8 s.cfg.lit.pairOfs
      let onR : Byte := if dir = .forward then base else pairB
      let offR : Byte := if dir = .forward then pairB else base
      exec (.motorOn m dir imm) s = .next (s.completedAfter (wakePart s ++
        [⟨onR, BitVec.ofInt 8 (v % 256)⟩, ⟨onR + 1, BitVec.ofInt 8 (v / 256)⟩, ⟨offR, 0⟩, ⟨offR + 1, 0⟩]))

/-- R123, R124: MOTOR_OFF zeroes the four registers of its motor in the listed order, and changes nothing else.
Other channel counts than R5's: log entry 7. Values and addresses that
other parameters than R5's put outside 0..255 are taken modulo 256: log entry 23. -/
def Obligations.MotorOffZeroesAllFour : Prop :=
  ∀ (m : Nat) (s : State), 1 ≤ m → m ≤ s.cfg.lit.nMotor →
    s.transport.Yields ((wakePart s).length + 4) .ok →
      let base : Byte := BitVec.ofNat 8 (s.cfg.lit.motorBase0 + s.cfg.lit.motorStride * (m - 1))
      let pairB : Byte := base + BitVec.ofNat 8 s.cfg.lit.pairOfs
      exec (.motorOff m) s = .next (s.completedAfter (wakePart s ++
        [⟨base, 0⟩, ⟨base + 1, 0⟩, ⟨pairB, 0⟩, ⟨pairB + 1, 0⟩]))

/-- R126, at command boundaries: a MOTOR_ON in either direction, from any state, that ends OK leaves its on-pair at the speed's
bytes and its off-pair at 0; and the same speed in the other direction after it, ending OK, swaps the two. -/
def Obligations.DirectionSwapMovesTheDrivenPair : Prop :=
  ∀ (m : Nat) (dir : Dir) (imm : Imm) (s t : State), s.Standard → 1 ≤ m → m ≤ 4 →
    exec (.motorOn m dir imm) s = .next t → t.seq = .idle → t.result = .ok →
      let v : Int := min 100 (max 0 imm.toInt) * 40
      let lo : RegImage := .among [BitVec.ofInt 8 (v % 256)]
      let hi : RegImage := .among [BitVec.ofInt 8 (v / 256)]
      let a : Nat := 0x28 + 8 * (m - 1)
      let onR : Nat := if dir = .forward then a else a + 4
      let offR : Nat := if dir = .forward then a + 4 else a
      (t.ext (BitVec.ofNat 8 onR) = lo ∧ t.ext (BitVec.ofNat 8 (onR + 1)) = hi ∧
        t.ext (BitVec.ofNat 8 offR) = .among [0] ∧ t.ext (BitVec.ofNat 8 (offR + 1)) = .among [0]) ∧
      ∀ (dir' : Dir) (u : State), dir' ≠ dir →
        exec (.motorOn m dir' imm) t = .next u → u.seq = .idle → u.result = .ok →
          u.ext (BitVec.ofNat 8 onR) = .among [0] ∧ u.ext (BitVec.ofNat 8 (onR + 1)) = .among [0] ∧
            u.ext (BitVec.ofNat 8 offR) = lo ∧ u.ext (BitVec.ofNat 8 (offR + 1)) = hi

/-! ### Stepper -/

/-- R134: NextPhase's two cycles, and the phase of step i of a turn. -/
def Obligations.PhaseOfEachStep : Prop :=
  (nextPhase 1 .forward = 2 ∧ nextPhase 2 .forward = 3 ∧ nextPhase 3 .forward = 4 ∧ nextPhase 4 .forward = 1) ∧
  (nextPhase 1 .reverse = 4 ∧ nextPhase 4 .reverse = 3 ∧ nextPhase 3 .reverse = 2 ∧ nextPhase 2 .reverse = 1) ∧
  ∀ i : Nat,
    (fun p => nextPhase p .forward)^[i] 1 = i % 4 + 1 ∧
    (fun p => nextPhase p .reverse)^[i] 1 = (4 - i % 4) % 4 + 1

/-- R131, R138: the four writes of a step of either stepper at each phase are those of the table, at this hardware's
parameters: the writes of the current step in any state, and those the statements about whole turns speak of. -/
def Obligations.StepWritesOfEachPhase : Prop :=
  (∀ (k : Nat) (s : State), s.Standard → 1 ≤ k → k ≤ 2 → stepWriteList k s = stepRow k s.phaseNumber) ∧
  ∀ k p : Nat, 1 ≤ k → k ≤ 2 → 1 ≤ p → p ≤ 4 → stepWritesAt lit k p = stepRow k p

/-- R130, R132, R133, R137: STEP_TURN of any count of STEPS_WIDTH bits (here 16), with every write answered OK and every
dwell elapsing: step i uses the phase of R134 from phase 1 on, each step is its four writes and one dwell, and nothing else changes but PHASE and STEP_I,
whose values after the command are the model's choice (log entry 10). R130's count is the whole IMM; that a STEPS_WIDTH below
16 takes its low bits is the model's choice (log entry 7). Values and addresses that
other parameters than R5's put outside 0..255 are taken modulo 256: log entry 23. -/
def Obligations.StepTurnRunsEveryStep : Prop :=
  ∀ (k : Nat) (dir : Dir) (imm : Imm) (s : State), 1 ≤ k → k ≤ s.cfg.lit.nStepper →
    let steps : Nat := imm.toNat % 2 ^ s.cfg.lit.stepsWidth
    s.transport.Yields ((wakePart s).length + 4 * steps) .ok → s.dwells.Yields steps .elapses →
      exec (.stepTurn k dir imm) s = .next (s.turned k dir steps)

/-- R135: STEP_ANGLE turns the step count of its clamped angle and its stepper's steps per revolution, as STEP_TURN does
(PHASE and STEP_I after it are the model's choice, log entry 10). At R5's values the map is R136's; that for other values it
runs over ANGLE_MIN..ANGLE_MAX, and that a stepper above 2 reads SPR[2], is the model's choice (log entry 7). Values and addresses that
other parameters than R5's put outside 0..255 are taken modulo 256: log entry 23.
An angle range that is a point or is reversed: log entry 24. -/
def Obligations.StepAngleTurnsTheConvertedCount : Prop :=
  ∀ (k : Nat) (dir : Dir) (imm : Imm) (s : State), 1 ≤ k → k ≤ s.cfg.lit.nStepper →
    let spr : Nat := if k = 1 then s.spr1.toNat else s.spr2.toNat
    let angle : Int := min s.cfg.lit.angleMax (max s.cfg.lit.angleMin imm.toInt)
    let steps : Nat := (angleToSteps s.cfg.lit s.cfg.stepRound angle spr).toNat
    s.transport.Yields ((wakePart s).length + 4 * steps) .ok → s.dwells.Yields steps .elapses →
      exec (.stepAngle k dir imm) s = .next (s.turned k dir steps)

/-- R136: AngleToSteps with STEP_ROUND = TRUNC, its ends and its range; for spr ≥ 1 truncation equals floor. -/
def Obligations.AngleToStepsTruncates : Prop :=
  ∀ a spr : Int, 1 ≤ a → a ≤ 360 → 0 ≤ spr → spr ≤ 65535 →
    angleToSteps lit .trunc a spr = 1 + ((a - 1) * (spr - 1)).tdiv 359 ∧
    angleToSteps lit .trunc 1 spr = 1 ∧ angleToSteps lit .trunc 360 spr = spr ∧
    (1 ≤ spr → 1 ≤ angleToSteps lit .trunc a spr ∧ angleToSteps lit .trunc a spr ≤ spr ∧
      angleToSteps lit .trunc a spr = angleToSteps lit .floor a spr) ∧
    (spr = 0 → 0 ≤ angleToSteps lit .trunc a spr ∧ angleToSteps lit .trunc a spr ≤ 1)

/-- 93 I3 (R136): each choice of STEP_ROUND rounds the linear map as its name says (toward zero, down, to nearest with halves
away from zero, up), gives a step count in 0..65535, and sends the ends of the angle's range to 1 and to `spr`; for every angle
range (R5), which for this hardware is 1..360. -/
def Obligations.EveryRoundingRoundsAsNamed : Prop :=
  ∀ (L : Literals) (r : StepRound) (a spr : Int), L.angleMin < L.angleMax → L.angleMin ≤ a → a ≤ L.angleMax →
    0 ≤ spr → spr ≤ 65535 →
    let d : Int := L.angleMax - L.angleMin
    let x : Int := (a - L.angleMin) * (spr - 1)
    let q : Int := angleToSteps L r a spr - 1
    (0 ≤ q + 1 ∧ q + 1 ≤ 65535) ∧
    (r = .trunc → q = x.tdiv d) ∧ (r = .floor → d * q ≤ x ∧ x < d * (q + 1)) ∧
    (r = .nearest → 2 * |x - d * q| ≤ d ∧ (2 * |x - d * q| = d → |x| < |d * q|)) ∧
    (r = .ceil → d * (q - 1) < x ∧ x ≤ d * q) ∧
    (d ∣ x → q = x / d) ∧
    angleToSteps L r L.angleMin spr = 1 ∧ angleToSteps L r L.angleMax spr = spr ∧ lit.angleMax - lit.angleMin = 359

/-- R141: a turn of zero steps runs EnsureReady alone, emits no step write and no dwell, and ends OK; under TRUNC a STEP_ANGLE
has the step count 0 only when SPR[k] = 0 and a = 360. That PHASE and STEP_I stay at 1 and 0 afterwards is the model's choice
(log entry 10).
Other channel counts, angle bounds and widths than R5's: log entry 7.
An angle range that is a point or is reversed: log entry 24. -/
def Obligations.ZeroStepsEmitNothing : Prop :=
  ∀ (k : Nat) (dir : Dir) (imm : Imm) (s : State), 1 ≤ k → k ≤ s.cfg.lit.nStepper →
    (s.transport.Yields (wakePart s).length .ok →
      exec (.stepTurn k dir 0) s = .next { s.completedAfter (wakePart s) with phase := 0, stepI := 0 } ∧
      (angleSteps k imm s = 0 →
        exec (.stepAngle k dir imm) s = .next { s.completedAfter (wakePart s) with phase := 0, stepI := 0 })) ∧
    (s.Standard → s.cfg.stepRound = .trunc →
      (angleSteps k imm s = 0 ↔ s.spr k = 0 ∧ min 360 (max 1 imm.toInt) = 360))

/-- R139: a stepper command that ends OK, with CHIP_INIT already 1, emits four writes and one dwell for each step, and its
dwells last `steps × DWELL_MS` in total.
Other channel counts, angle bounds and widths than R5's: log entry 7.
An angle range that is a point or is reversed: log entry 24. -/
def Obligations.LengthOfATurn : Prop :=
  ∀ (i : Instr) (s t : State), turns i = true → s.chipInit = true →
    exec i s = .next t → t.seq = .idle → t.result = .ok →
      (newEvents s t).countP Event.isWrite = 4 * stepTotal i s ∧
      (newEvents s t).filter Event.isDwell = List.replicate (stepTotal i s) (.dwell s.cfg.dwellMs)

/-- R27, R28, R132: PHASE and STEP_I cannot be observed outside a stepper command and affect no later command: whatever they
hold before a command, everything else after it is the same. -/
def Obligations.PhaseAndStepCounterAreUnobservable : Prop :=
  ∀ (i : Instr) (s t t' : State) (p : BitVec 2) (c : BitVec 17),
    exec i s = .next t → exec i { s with phase := p, stepI := c } = .next t' →
      { t' with phase := t.phase, stepI := t.stepI } = t ∧ t'.status = t.status

/-! ### Trim and configuration -/

/-- R150: SET_MULT, its words and its effect: TRIM_MULT takes the clamped value, nothing is emitted, and it always ends OK. -/
def Obligations.SetMultStoresTheClampedValue : Prop :=
  (∀ imm : Imm, decode lit ((0x8000 : BitVec 16) ++ imm) = .ok (.setMult imm)) ∧
  ∀ (imm : Imm) (s : State), s.Standard → s.cfg.setterInit = false →
    exec (.setMult imm) s = .next { s with
      seq := .idle, result := .ok, failReg := 0x00, trimMult := BitVec.ofInt 8 (min 226 (max 113 imm.toInt)) }

/-- R151: the multiplier clamp laws. -/
def Obligations.MultiplierClampLaws : Prop :=
  ∀ s : State, s.Standard → s.cfg.setterInit = false →
    exec (.setMult 0) s = exec (.setMult 113) s ∧
    exec (.setMult 113) s = .next { s with seq := .idle, result := .ok, failReg := 0x00, trimMult := 113 } ∧
    exec (.setMult 300) s = exec (.setMult 226) s ∧
    exec (.setMult 226) s = .next { s with seq := .idle, result := .ok, failReg := 0x00, trimMult := 226 }

/-- R152: SET_ZERO, its words and its effect: TRIM_ZERO takes the clamped value and nothing else changes. -/
def Obligations.SetZeroStoresTheClampedValue : Prop :=
  (∀ imm : Imm, decode lit ((0x9000 : BitVec 16) ++ imm) = .ok (.setZero imm)) ∧
  ∀ (imm : Imm) (s : State), s.Standard → s.cfg.setterInit = false →
    exec (.setZero imm) s = .next { s with
      seq := .idle, result := .ok, failReg := 0x00, trimZero := BitVec.ofInt 8 (min 204 (max 102 imm.toInt)) }

/-- R153: the zero-offset clamp laws, for every value beyond a bound. -/
def Obligations.ZeroOffsetClampLaws : Prop :=
  ∀ (imm : Imm) (s : State), s.Standard → s.cfg.setterInit = false →
    (imm.toInt ≤ 0x66 → exec (.setZero imm) s = exec (.setZero 0x66) s) ∧
    (0xCC ≤ imm.toInt → exec (.setZero imm) s = exec (.setZero 0xCC) s) ∧
    exec (.setZero 0x66) s ≠ exec (.setZero 0xCC) s

/-- R154: SET_SPR, its words and its effect: SPR[k] takes IMM as given, the other stepper's register and all else stay. -/
def Obligations.SetSprOverwritesOneRegister : Prop :=
  (∀ imm : Imm, decode lit ((0xA000 : BitVec 16) ++ imm) = .ok (.setSpr 1 imm) ∧
    decode lit ((0xA100 : BitVec 16) ++ imm) = .ok (.setSpr 2 imm)) ∧
  ∀ (imm : Imm) (s : State), s.Standard → s.cfg.setterInit = false →
    exec (.setSpr 1 imm) s = .next { s with seq := .idle, result := .ok, failReg := 0x00, spr1 := imm } ∧
    exec (.setSpr 2 imm) s = .next { s with seq := .idle, result := .ok, failReg := 0x00, spr2 := imm }

/-- R155: SPR[k] affects only STEP_ANGLE on stepper k: every other command does the same whatever SPR[k] holds (but for that
register itself), so SET_SPR has no effect on STEP_TURN; and SET_SPR moves no motor: it emits nothing. -/
def Obligations.SprAffectsOnlyStepAngle : Prop :=
  (∀ (i : Instr) (k : Nat) (v : BitVec 16) (s t t' : State), s.cfg.lit.nStepper ≤ 2 → i.WellFormed s.cfg.lit →
    1 ≤ k → k ≤ 2 → (∀ dir imm, i ≠ .stepAngle k dir imm) → exec i s = .next t → exec i (s.setSprReg k v) = .next t' →
      t'.setSprReg k (t.spr k) = t ∧ (t'.spr k = v ∨ t'.spr k = t.spr k)) ∧
  ∀ (k : Nat) (imm : Imm) (s t : State), s.cfg.setterInit = false → exec (.setSpr k imm) s = .next t → t.log = s.log

/-- R156: REDUCE_PULSE, its words and its effect by the rule's formula; nothing is emitted and it always ends OK. -/
def Obligations.ReducePulseOverwritesTheMultiplier : Prop :=
  (∀ imm : Imm, decode lit ((0xB000 : BitVec 16) ++ imm) = .ok (.reducePulse imm)) ∧
  ∀ (imm : Imm) (s : State), s.Standard → s.cfg.setterInit = false → s.cfg.pctClamp = true →
    exec (.reducePulse imm) s = .next { s with
      seq := .idle, result := .ok, failReg := 0x00
      trimMult := BitVec.ofInt 8 (min 226 (max 113 ((226 * min 50 (max 0 imm.toInt)).tdiv 100))) }

/-- R157: for every legal operand the multiplier that REDUCE_PULSE leaves is 113, however the division is rounded. -/
def Obligations.ReducePulseAlwaysYields113 : Prop :=
  (∀ (imm : Imm) (s t : State), s.Standard → s.cfg.setterInit = false → s.cfg.pctClamp = true →
    exec (.reducePulse imm) s = .next t → t.trimMult = 113) ∧
  ∀ (r : StepRound) (pct : Int), 0 ≤ pct → pct ≤ 50 → multValue lit (roundDiv r (226 * pct) 100) = 113

/-- 93 I4: with PCT_CLAMP false, REDUCE_PULSE stores `clamp(113, 226, tdiv(226 × sext_16(IMM), 100))`. -/
def Obligations.ReducePulseWithoutPercentageClamp : Prop :=
  ∀ (imm : Imm) (s : State), s.Standard → s.cfg.setterInit = false → s.cfg.pctClamp = false →
    exec (.reducePulse imm) s = .next { s with
      seq := .idle, result := .ok, failReg := 0x00
      trimMult := BitVec.ofInt 8 (min 226 (max 113 ((226 * imm.toInt).tdiv 100))) }

/-- R150, R152, R154, R156 with the bounds as parameters (R5; 92 D27): the four setters, their effect and their frame for every
value of the literals. What SPR_WIDTH below 16 means is the model's choice (log entry 7), and so is
that SET_SPR writes SPR[2] for a stepper above 2 (log entry 7) and for stepper 0, which no word decodes to (log entry 12); and
the trim value where a bound does not fit its byte (log entry 23). -/
def Obligations.SettersUseTheParameters : Prop :=
  ∀ (k : Nat) (imm : Imm) (s : State), s.cfg.setterInit = false →
    let L := s.cfg.lit
    let pct : Int := if s.cfg.pctClamp then min L.pctMax (max 0 imm.toInt) else imm.toInt
    exec (.setMult imm) s = .next { s with
      seq := .idle, result := .ok, failReg := 0x00
      trimMult := BitVec.ofInt 8 (min L.multMax (max L.multMin imm.toInt)) } ∧
    exec (.setZero imm) s = .next { s with
      seq := .idle, result := .ok, failReg := 0x00
      trimZero := BitVec.ofInt 8 (min L.zeroMax (max L.zeroMin imm.toInt)) } ∧
    exec (.reducePulse imm) s = .next { s with
      seq := .idle, result := .ok, failReg := 0x00
      trimMult := BitVec.ofInt 8 (min L.multMax (max L.multMin ((L.reduceBase * pct).tdiv 100))) } ∧
    exec (.setSpr k imm) s = .next ({ s with seq := .idle, result := .ok, failReg := 0x00 }.setSprReg k
      (BitVec.ofNat 16 (imm.toNat % 2 ^ L.sprWidth)))

/-- 93 I5: with SETTER_INIT true, each setter runs EnsureReady first and then writes its register. A NACK there is
WakeNackAbortsAndLeavesChipUninitialised. -/
def Obligations.SettersInitialiseWhereTheParameterSaysSo : Prop :=
  ∀ (imm : Imm) (s : State), s.Standard → s.cfg.setterInit = true → s.transport.Yields (wakePart s).length .ok →
    exec (.setMult imm) s = .next { s.completedAfter (wakePart s) with
      trimMult := BitVec.ofInt 8 (min 226 (max 113 imm.toInt)) } ∧
    exec (.setZero imm) s = .next { s.completedAfter (wakePart s) with
      trimZero := BitVec.ofInt 8 (min 204 (max 102 imm.toInt)) } ∧
    exec (.setSpr 1 imm) s = .next { s.completedAfter (wakePart s) with spr1 := imm } ∧
    exec (.setSpr 2 imm) s = .next { s.completedAfter (wakePart s) with spr2 := imm } ∧
    (s.cfg.pctClamp = true →
      exec (.reducePulse imm) s = .next { s.completedAfter (wakePart s) with trimMult := 113 }) ∧
    (s.cfg.pctClamp = false →
      exec (.reducePulse imm) s = .next { s.completedAfter (wakePart s) with
        trimMult := BitVec.ofInt 8 (min 226 (max 113 ((226 * imm.toInt).tdiv 100))) })

/-- R159 (and R158): ALL_OFF writes 0 to the registers of every motor and then of every servo, in order, after the wake writes
if needed, and nothing else changes, for every value of the parameters; at this hardware's they are the rule's 32 registers in
the rule's order, and afterwards every one of them reads 0 in the image.
Other channel counts than R5's: log entry 7. Values and addresses that
other parameters than R5's put outside 0..255 are taken modulo 256: log entry 23. -/
def Obligations.AllOffZeroesThirtyTwoRegisters : Prop :=
  ∀ s : State,
    let motor (j : Nat) : Byte := BitVec.ofNat 8 (s.cfg.lit.motorBase0 + s.cfg.lit.motorStride * j)
    let servo (j : Nat) : Byte := BitVec.ofNat 8 (s.cfg.lit.servoBase0 + s.cfg.lit.servoStride * j)
    let pairOfs : Byte := BitVec.ofNat 8 s.cfg.lit.pairOfs
    let regs : List Byte :=
      ((List.range s.cfg.lit.nMotor).flatMap fun j =>
        [motor j, motor j + 1, motor j + pairOfs, motor j + pairOfs + 1]) ++
      (List.range s.cfg.lit.nServo).flatMap fun j => [servo j, servo j + 1]
    let ws : List RegWrite := regs.map fun r => ⟨r, 0⟩
    (s.transport.Yields ((wakePart s).length + ws.length) .ok →
      exec .allOff s = .next (s.completedAfter (wakePart s ++ ws)) ∧
        ∀ r ∈ regs, (s.completedAfter (wakePart s ++ ws)).ext r = .among [0]) ∧
    (s.Standard → regs =
      [0x28, 0x29, 0x2C, 0x2D, 0x30, 0x31, 0x34, 0x35, 0x38, 0x39, 0x3C, 0x3D, 0x40, 0x41, 0x44, 0x45,
        0x08, 0x09, 0x0C, 0x0D, 0x10, 0x11, 0x14, 0x15, 0x18, 0x19, 0x1C, 0x1D, 0x20, 0x21, 0x24, 0x25])

/-! ### Errors, the trace and the register image -/

/-- R174 (with R171): the abort is precise. Whatever the transport answers, a command that ends with RESULT TRANSPORT has
emitted exactly what it would have emitted with every write OK, up to and including the NACKed write. -/
def Obligations.AbortIsPrecise : Prop :=
  ∀ (i : Instr) (s t tOk : State),
    exec i s = .next t → exec i { s with transport := ⟨[], .ok⟩ } = .next tOk →
    t.seq = .idle → t.result = .transport →
      ∃ (es rest : List Event) (reg val : Byte),
        tOk.trace = s.trace ++ es ++ [.write s.cfg.devAddr.byte reg val .ok] ++ rest ∧
        t.trace = s.trace ++ es ++ [.write s.cfg.devAddr.byte reg val .nack] ∧ t.failReg = reg

/-- R174 (2), (3), (4) with R171: a NACK on a command's own write, after EnsureReady completed, in the six commands that are not
turns: the state after it is the state before it with the writes in the trace, CHIP_INIT 1, RESULT = TRANSPORT and FAIL_REG;
TRIM_MULT, TRIM_ZERO, SPR and everything else are kept. R58: wherever a command is aborted, the image of the register of the
NACKed write is the one before that write or the value written, with no rule choosing; an unknown image stays unknown. Values and addresses that
other parameters than R5's put outside 0..255 are taken modulo 256: log entry 23. -/
def Obligations.OwnWriteNackKeepsEverythingElse : Prop :=
  (∀ (i : Instr) (s : State) (vs us : List RegWrite) (v : RegWrite),
    writesRegisters i = true → turns i = false → ownWrites i s = vs ++ v :: us →
    s.transport.Yields ((wakePart s).length + vs.length) .ok → s.transport.at ((wakePart s).length + vs.length) = .nack →
      exec i s = .next { s.abortedAt (wakePart s ++ vs) v with chipInit := true }) ∧
  (∀ (s : State) (vs : List RegWrite) (v : RegWrite),
    (s.abortedAt vs v).ext v.reg = ((s.wrote vs).ext v.reg).orValue v.val) ∧
  ∀ (img : RegImage) (v b : Byte),
    ((img.orValue v).Admits b ↔ img.Admits b ∨ b = v) ∧ (img.orValue v = .any ↔ img = .any)

/-- R133, R174: the same in a turn, after `n` whole steps: no dwell follows the NACKed write, CHIP_INIT is 1, TRIM_MULT,
TRIM_ZERO, SPR and everything else are kept, but for PHASE and STEP_I, whose values after the command are the model's choice
(log entry 10); and the image of the NACKed write's register is the one before it or the value written (R58). What other
channel counts, angle bounds and widths than R5's mean is the model's choice too (log entry 7). Values and addresses that
other parameters than R5's put outside 0..255 are taken modulo 256: log entry 23.
An angle range that is a point or is reversed: log entry 24. -/
def Obligations.TurnNackKeepsEverythingElse : Prop :=
  ∀ (i : Instr) (k : Nat) (dir : Dir) (imm : Imm) (s : State) (n : Nat) (vs us : List RegWrite) (v : RegWrite),
    i = .stepTurn k dir imm ∨ i = .stepAngle k dir imm → n < stepTotal i s →
    stepWritesAt s.cfg.lit k (turnPhase dir n) = vs ++ v :: us →
    s.transport.Yields ((wakePart s).length + 4 * n + vs.length) .ok →
    s.transport.at ((wakePart s).length + 4 * n + vs.length) = .nack → s.dwells.Yields n .elapses →
      exec i s = .next (s.turnAborted k dir n vs v) ∧
        (s.turnAborted k dir n vs v).ext v.reg = (((s.turned k dir n).wrote vs).ext v.reg).orValue v.val

/-- R174 (2): whatever the transport answers, a command that ends with RESULT TRANSPORT keeps every configuration register, and
CHIP_INIT is 1 after it exactly when it was 1 before or the mode-1 write of this command's EnsureReady was answered OK. R174 says that the setters cannot fail: with
SETTER_INIT true one can, in EnsureReady (93 I5), and that its register is then unwritten is log entry 8. -/
def Obligations.AbortKeepsEveryRegister : Prop :=
  ∀ (i : Instr) (s t : State), exec i s = .next t → t.seq = .idle → t.result = .transport →
    (t.trimMult = s.trimMult ∧ t.trimZero = s.trimZero ∧ t.spr1 = s.spr1 ∧ t.spr2 = s.spr2) ∧
    t.host = s.host ∧ t.cfg = s.cfg ∧
    (s.Standard → i.WellFormed s.cfg.lit →
      (t.chipInit = true ↔ s.chipInit = true ∨ Event.write s.cfg.devAddr.byte 0x00 0x01 .ok ∈ newEvents s t))

/-- R33 (with R32, R176): every command that ends reports its outcome: FAIL_REG holds the register of the NACKed write, the
last event of the trace, when RESULT is TRANSPORT, and 0x00 when the command ended OK or was illegal. -/
def Obligations.FailRegReportsTheNackedWrite : Prop :=
  (∀ (i : Instr) (s t : State), exec i s = .next t → t.seq = .idle →
    (t.result = .ok ∧ t.failReg = 0x00) ∨
    (t.result = .transport ∧ ∃ val rest, t.log = .write s.cfg.devAddr.byte t.failReg val .nack :: rest)) ∧
  ∀ (w : Word) (e : Illegal) (s t : State), decode s.cfg.lit w = .error e → acceptWord w s = .next t →
    t.result = .illegal ∧ t.failReg = 0x00

/-- R204: where the transport answers every write and every dwell elapses, every command ends: SEQ is IDLE and RESULT is OK
or TRANSPORT. -/
def Obligations.AnsweredCommandsEnd : Prop :=
  ∀ (i : Instr) (s : State), (∀ k, s.transport.at k = .ok ∨ s.transport.at k = .nack) →
    (∀ k, s.dwells.at k = .elapses) →
      ∃ t, exec i s = .next t ∧ t.seq = .idle ∧ (t.result = .ok ∨ t.result = .transport)

/-- R7, R60: the trace only grows: a step, a reset included, removes or changes no event. -/
def Obligations.TraceOnlyGrows : Prop :=
  ∀ s t : State, step s = .next t → s.log <:+ t.log

/-- R56 (with R55, R12, R50): every write that any step emits carries DEV_ADDR, which is 0x6C, 0x6D, 0x6E or 0x6F, and goes to a
register of the map, with a value the map allows; the addresses that R56 lists are never written. -/
def Obligations.EveryWriteIsInTheRegisterMap : Prop :=
  (DevAddr.a6C.byte = 0x6C ∧ DevAddr.a6D.byte = 0x6D ∧ DevAddr.a6E.byte = 0x6E ∧ DevAddr.a6F.byte = 0x6F) ∧
  ∀ s t : State, s.Standard → step s = .next t → ∀ e ∈ newEvents s t, e.Mapped s.cfg.devAddr.byte

/-- R125, R140 (with R55): whatever the transport answers, a command leaves the image of every register as it was, but for
the wake registers while CHIP_INIT is 0 and its own registers; a setter with SETTER_INIT false leaves them all. -/
def Obligations.CommandsLeaveOtherRegisterImages : Prop :=
  ∀ (i : Instr) (s t : State) (r : Byte), s.Standard → i.WellFormed s.cfg.lit → exec i s = .next t →
    (r ∈ wakeRegisters → s.chipInit = true ∨ (writesRegisters i = false ∧ s.cfg.setterInit = false)) →
    r ∉ ownRegisters i → t.ext r = s.ext r

/-! ### Waiting, reset and invariants -/

/-- R52 (93 I6) and R204: while the environment holds the sequencer at a control point and there is no reset, the step leaves
everything as it is, with BUSY = 1: a stuck state, not a time-out. -/
def Obligations.HeldCommandWaits : Prop :=
  ∀ (s : State) (w : Word) (i : Instr) (p : Point), s.shared = false → s.seq = .busy w p → decode s.cfg.lit w = .ok i →
    PointOk i p s → HeldBy p s → s.NoReset → step s = .next s ∧ s.busy = true

/-- R30, R36: while BUSY is 1 no command is accepted, and nothing the host puts on the command channel has any effect. -/
def Obligations.NoCommandIsAcceptedWhileBusy : Prop :=
  ∀ (s t : State) (w : Word) (p : Point) (v : Word) (rest : List HostInput),
    s.seq = .busy w p → s.host = .cmd v :: rest → step s = .next t →
      t.host = s.host ∧ step { s with host := [] } = .next { t with host := [] }

/-- R21, R52 (4): SEQ keeps the place. The step of a BUSY block, with no reset, runs the command on from its control point; and a
command that is held there and goes on when the environment answers ends exactly as if those answers had been there from the
start (where the angle's range is not a point, log entry 7). R32, R30: while it is held, RESULT and FAIL_REG keep their old
values, and so do the configuration registers, the host's inputs and the parameters. -/
def Obligations.HeldCommandGoesOnWhereItStood : Prop :=
  (∀ (s : State) (w : Word) (p : Point) (i : Instr), s.shared = false → s.seq = .busy w p →
    decode s.cfg.lit w = .ok i → s.NoReset → step s = .next (resume i p s)) ∧
  (∀ (i : Instr) (s t : State) (w : Word) (p : Point), s.cfg.lit.angleMin < s.cfg.lit.angleMax → exec i s = .next t →
    t.seq = .busy w p →
      w = encode i ∧
      ∀ (tr : Script WriteFate) (dw : Script DwellFate),
        let nw := (newEvents s t).countP Event.isWrite
        let nd := (newEvents s t).countP Event.isDwell
        exec i { s with
            transport := ⟨List.replicate nw .ok ++ tr.listed, tr.rest⟩
            dwells := ⟨List.replicate nd .elapses ++ dw.listed, dw.rest⟩ } =
          .next (resume i p { t with transport := tr, dwells := dw })) ∧
  ∀ (i : Instr) (s t : State),
    (exec i s = .next t ∨ (s.busy = true ∧ s.NoReset ∧ step s = .next t)) → t.busy = true →
      t.result = s.result ∧ t.failReg = s.failReg ∧ t.trimMult = s.trimMult ∧ t.trimZero = s.trimZero ∧
        t.spr1 = s.spr1 ∧ t.spr2 = s.spr2 ∧ t.host = s.host ∧ t.cfg = s.cfg

/-- R190, R191: `rst` at any time restores every reset value, abandons the command, and emits nothing but the LOST record of a
write that was outstanding; the image of that write's register is then the one before it or the value written (R58), and every
other image is as before. Three points are the model's: a reset inside a dwell leaves no DW event (log entry 9), a write that
has not been presented yet leaves no LOST record (log entry 11), and where the transport's answer is at hand in the same step
the reset comes first, so that the write is LOST (log entry 20). -/
def Obligations.ResetAbandonsTheCommand : Prop :=
  ∀ (s : State) (strap : Option DevAddr) (rest : List HostInput),
    s.shared = false → s.host = .rst strap :: rest →
      ∃ t, step s = .next t ∧ t.AtReset ∧ t.host = rest ∧
        t.log = (match s.outstanding with
          | some w => [.write s.cfg.devAddr.byte w.reg w.val .lost]
          | none => []) ++ s.log ∧
        ∀ r, extOfLog s.cfg.devAddr.byte r t.log = (match s.outstanding with
          | some w => if w.reg = r then (s.ext r).orValue w.val else s.ext r
          | none => s.ext r)

/-- R38, R193: no command changes a parameter; only a reset may set the DEV_ADDR strap. -/
def Obligations.ParametersAreConstantBetweenResets : Prop :=
  ∀ s t : State, step s = .next t →
    (s.NoReset → t.cfg = s.cfg) ∧ { t.cfg with devAddr := s.cfg.devAddr } = s.cfg

/-- R26 and R21: the invariant that every step keeps, with R26's own bounds at this hardware's parameters. -/
def Obligations.EveryStepKeepsTheInvariant : Prop :=
  ∀ s t : State, s.Inv → step s = .next t →
    t.Inv ∧ (s.Standard → t.Standard ∧
      113 ≤ t.trimMult.toNat ∧ t.trimMult.toNat ≤ 226 ∧ 102 ≤ t.trimZero.toNat ∧ t.trimZero.toNat ≤ 204)

/-- R26: the invariant holds right after reset. -/
def Obligations.ResetSatisfiesTheInvariant : Prop := State.reset.Inv
end

