-- ==== Sys2Proof/Laws/State.lean ====
section
/-! SUPPORT. One lemma per field of State for each shared update, true by rfl: a proof cites these and unfolds no record
update. -/

namespace Sys2Proof.Machine

@[simp] theorem accept_seq (w : Word) (s : State) : (accept w s).seq = .busy w (.wake 0) := rfl
@[simp] theorem accept_chipInit (w : Word) (s : State) : (accept w s).chipInit = s.chipInit := rfl
@[simp] theorem accept_trimMult (w : Word) (s : State) : (accept w s).trimMult = s.trimMult := rfl
@[simp] theorem accept_trimZero (w : Word) (s : State) : (accept w s).trimZero = s.trimZero := rfl
@[simp] theorem accept_spr1 (w : Word) (s : State) : (accept w s).spr1 = s.spr1 := rfl
@[simp] theorem accept_spr2 (w : Word) (s : State) : (accept w s).spr2 = s.spr2 := rfl
@[simp] theorem accept_phase (w : Word) (s : State) : (accept w s).phase = s.phase := rfl
@[simp] theorem accept_stepI (w : Word) (s : State) : (accept w s).stepI = s.stepI := rfl
@[simp] theorem accept_result (w : Word) (s : State) : (accept w s).result = s.result := rfl
@[simp] theorem accept_failReg (w : Word) (s : State) : (accept w s).failReg = s.failReg := rfl
@[simp] theorem accept_log (w : Word) (s : State) : (accept w s).log = s.log := rfl
@[simp] theorem accept_host (w : Word) (s : State) : (accept w s).host = s.host := rfl
@[simp] theorem accept_transport (w : Word) (s : State) : (accept w s).transport = s.transport := rfl
@[simp] theorem accept_dwells (w : Word) (s : State) : (accept w s).dwells = s.dwells := rfl
@[simp] theorem accept_cfg (w : Word) (s : State) : (accept w s).cfg = s.cfg := rfl

@[simp] theorem raise_seq (e : Error) (s : State) : (raise e s).seq = .idle := rfl
@[simp] theorem raise_chipInit (e : Error) (s : State) : (raise e s).chipInit = s.chipInit := rfl
@[simp] theorem raise_trimMult (e : Error) (s : State) : (raise e s).trimMult = s.trimMult := rfl
@[simp] theorem raise_trimZero (e : Error) (s : State) : (raise e s).trimZero = s.trimZero := rfl
@[simp] theorem raise_spr1 (e : Error) (s : State) : (raise e s).spr1 = s.spr1 := rfl
@[simp] theorem raise_spr2 (e : Error) (s : State) : (raise e s).spr2 = s.spr2 := rfl
@[simp] theorem raise_phase (e : Error) (s : State) : (raise e s).phase = s.phase := rfl
@[simp] theorem raise_stepI (e : Error) (s : State) : (raise e s).stepI = s.stepI := rfl
@[simp] theorem raise_result (e : Error) (s : State) : (raise e s).result = e.result := rfl
@[simp] theorem raise_failReg (e : Error) (s : State) : (raise e s).failReg = e.failReg := rfl
@[simp] theorem raise_log (e : Error) (s : State) : (raise e s).log = s.log := rfl
@[simp] theorem raise_host (e : Error) (s : State) : (raise e s).host = s.host := rfl
@[simp] theorem raise_transport (e : Error) (s : State) : (raise e s).transport = s.transport := rfl
@[simp] theorem raise_dwells (e : Error) (s : State) : (raise e s).dwells = s.dwells := rfl
@[simp] theorem raise_cfg (e : Error) (s : State) : (raise e s).cfg = s.cfg := rfl

@[simp] theorem complete_seq (s : State) : (complete s).seq = .idle := rfl
@[simp] theorem complete_chipInit (s : State) : (complete s).chipInit = s.chipInit := rfl
@[simp] theorem complete_trimMult (s : State) : (complete s).trimMult = s.trimMult := rfl
@[simp] theorem complete_trimZero (s : State) : (complete s).trimZero = s.trimZero := rfl
@[simp] theorem complete_spr1 (s : State) : (complete s).spr1 = s.spr1 := rfl
@[simp] theorem complete_spr2 (s : State) : (complete s).spr2 = s.spr2 := rfl
@[simp] theorem complete_phase (s : State) : (complete s).phase = s.phase := rfl
@[simp] theorem complete_stepI (s : State) : (complete s).stepI = s.stepI := rfl
@[simp] theorem complete_result (s : State) : (complete s).result = .ok := rfl
@[simp] theorem complete_failReg (s : State) : (complete s).failReg = 0x00 := rfl
@[simp] theorem complete_log (s : State) : (complete s).log = s.log := rfl
@[simp] theorem complete_host (s : State) : (complete s).host = s.host := rfl
@[simp] theorem complete_transport (s : State) : (complete s).transport = s.transport := rfl
@[simp] theorem complete_dwells (s : State) : (complete s).dwells = s.dwells := rfl
@[simp] theorem complete_cfg (s : State) : (complete s).cfg = s.cfg := rfl

@[simp] theorem answered_seq (w : RegWrite) (r : Resp) (s : State) : (s.answered w r).seq = s.seq := rfl
@[simp] theorem answered_chipInit (w : RegWrite) (r : Resp) (s : State) : (s.answered w r).chipInit = s.chipInit := rfl
@[simp] theorem answered_trimMult (w : RegWrite) (r : Resp) (s : State) : (s.answered w r).trimMult = s.trimMult := rfl
@[simp] theorem answered_trimZero (w : RegWrite) (r : Resp) (s : State) : (s.answered w r).trimZero = s.trimZero := rfl
@[simp] theorem answered_spr1 (w : RegWrite) (r : Resp) (s : State) : (s.answered w r).spr1 = s.spr1 := rfl
@[simp] theorem answered_spr2 (w : RegWrite) (r : Resp) (s : State) : (s.answered w r).spr2 = s.spr2 := rfl
@[simp] theorem answered_phase (w : RegWrite) (r : Resp) (s : State) : (s.answered w r).phase = s.phase := rfl
@[simp] theorem answered_stepI (w : RegWrite) (r : Resp) (s : State) : (s.answered w r).stepI = s.stepI := rfl
@[simp] theorem answered_result (w : RegWrite) (r : Resp) (s : State) : (s.answered w r).result = s.result := rfl
@[simp] theorem answered_failReg (w : RegWrite) (r : Resp) (s : State) : (s.answered w r).failReg = s.failReg := rfl
@[simp] theorem answered_log (w : RegWrite) (r : Resp) (s : State) : (s.answered w r).log = s.writeEvent w r :: s.log := rfl
@[simp] theorem answered_host (w : RegWrite) (r : Resp) (s : State) : (s.answered w r).host = s.host := rfl
@[simp] theorem answered_transport (w : RegWrite) (r : Resp) (s : State) : (s.answered w r).transport = s.transport.drop 1 := rfl
@[simp] theorem answered_dwells (w : RegWrite) (r : Resp) (s : State) : (s.answered w r).dwells = s.dwells := rfl
@[simp] theorem answered_cfg (w : RegWrite) (r : Resp) (s : State) : (s.answered w r).cfg = s.cfg := rfl

@[simp] theorem dwelt_seq (s : State) : (s.dwelt).seq = s.seq := rfl
@[simp] theorem dwelt_chipInit (s : State) : (s.dwelt).chipInit = s.chipInit := rfl
@[simp] theorem dwelt_trimMult (s : State) : (s.dwelt).trimMult = s.trimMult := rfl
@[simp] theorem dwelt_trimZero (s : State) : (s.dwelt).trimZero = s.trimZero := rfl
@[simp] theorem dwelt_spr1 (s : State) : (s.dwelt).spr1 = s.spr1 := rfl
@[simp] theorem dwelt_spr2 (s : State) : (s.dwelt).spr2 = s.spr2 := rfl
@[simp] theorem dwelt_phase (s : State) : (s.dwelt).phase = s.phase := rfl
@[simp] theorem dwelt_stepI (s : State) : (s.dwelt).stepI = s.stepI := rfl
@[simp] theorem dwelt_result (s : State) : (s.dwelt).result = s.result := rfl
@[simp] theorem dwelt_failReg (s : State) : (s.dwelt).failReg = s.failReg := rfl
@[simp] theorem dwelt_log (s : State) : (s.dwelt).log = .dwell s.cfg.dwellMs :: s.log := rfl
@[simp] theorem dwelt_host (s : State) : (s.dwelt).host = s.host := rfl
@[simp] theorem dwelt_transport (s : State) : (s.dwelt).transport = s.transport := rfl
@[simp] theorem dwelt_dwells (s : State) : (s.dwelt).dwells = s.dwells.drop 1 := rfl
@[simp] theorem dwelt_cfg (s : State) : (s.dwelt).cfg = s.cfg := rfl

@[simp] theorem markReady_seq (s : State) : (s.markReady).seq = s.seq := rfl
@[simp] theorem markReady_chipInit (s : State) : (s.markReady).chipInit = true := rfl
@[simp] theorem markReady_trimMult (s : State) : (s.markReady).trimMult = s.trimMult := rfl
@[simp] theorem markReady_trimZero (s : State) : (s.markReady).trimZero = s.trimZero := rfl
@[simp] theorem markReady_spr1 (s : State) : (s.markReady).spr1 = s.spr1 := rfl
@[simp] theorem markReady_spr2 (s : State) : (s.markReady).spr2 = s.spr2 := rfl
@[simp] theorem markReady_phase (s : State) : (s.markReady).phase = s.phase := rfl
@[simp] theorem markReady_stepI (s : State) : (s.markReady).stepI = s.stepI := rfl
@[simp] theorem markReady_result (s : State) : (s.markReady).result = s.result := rfl
@[simp] theorem markReady_failReg (s : State) : (s.markReady).failReg = s.failReg := rfl
@[simp] theorem markReady_log (s : State) : (s.markReady).log = s.log := rfl
@[simp] theorem markReady_host (s : State) : (s.markReady).host = s.host := rfl
@[simp] theorem markReady_transport (s : State) : (s.markReady).transport = s.transport := rfl
@[simp] theorem markReady_dwells (s : State) : (s.markReady).dwells = s.dwells := rfl
@[simp] theorem markReady_cfg (s : State) : (s.markReady).cfg = s.cfg := rfl

@[simp] theorem turnStart_seq (s : State) : (turnStart s).seq = s.seq := rfl
@[simp] theorem turnStart_chipInit (s : State) : (turnStart s).chipInit = s.chipInit := rfl
@[simp] theorem turnStart_trimMult (s : State) : (turnStart s).trimMult = s.trimMult := rfl
@[simp] theorem turnStart_trimZero (s : State) : (turnStart s).trimZero = s.trimZero := rfl
@[simp] theorem turnStart_spr1 (s : State) : (turnStart s).spr1 = s.spr1 := rfl
@[simp] theorem turnStart_spr2 (s : State) : (turnStart s).spr2 = s.spr2 := rfl
@[simp] theorem turnStart_phase (s : State) : (turnStart s).phase = 0 := rfl
@[simp] theorem turnStart_stepI (s : State) : (turnStart s).stepI = 0 := rfl
@[simp] theorem turnStart_result (s : State) : (turnStart s).result = s.result := rfl
@[simp] theorem turnStart_failReg (s : State) : (turnStart s).failReg = s.failReg := rfl
@[simp] theorem turnStart_log (s : State) : (turnStart s).log = s.log := rfl
@[simp] theorem turnStart_host (s : State) : (turnStart s).host = s.host := rfl
@[simp] theorem turnStart_transport (s : State) : (turnStart s).transport = s.transport := rfl
@[simp] theorem turnStart_dwells (s : State) : (turnStart s).dwells = s.dwells := rfl
@[simp] theorem turnStart_cfg (s : State) : (turnStart s).cfg = s.cfg := rfl

@[simp] theorem turnAdvance_seq (d : Dir) (s : State) : (turnAdvance d s).seq = s.seq := rfl
@[simp] theorem turnAdvance_chipInit (d : Dir) (s : State) : (turnAdvance d s).chipInit = s.chipInit := rfl
@[simp] theorem turnAdvance_trimMult (d : Dir) (s : State) : (turnAdvance d s).trimMult = s.trimMult := rfl
@[simp] theorem turnAdvance_trimZero (d : Dir) (s : State) : (turnAdvance d s).trimZero = s.trimZero := rfl
@[simp] theorem turnAdvance_spr1 (d : Dir) (s : State) : (turnAdvance d s).spr1 = s.spr1 := rfl
@[simp] theorem turnAdvance_spr2 (d : Dir) (s : State) : (turnAdvance d s).spr2 = s.spr2 := rfl
@[simp] theorem turnAdvance_phase (d : Dir) (s : State) : (turnAdvance d s).phase = BitVec.ofNat 2 (nextPhase s.phaseNumber d - 1) := rfl
@[simp] theorem turnAdvance_stepI (d : Dir) (s : State) : (turnAdvance d s).stepI = s.stepI + 1 := rfl
@[simp] theorem turnAdvance_result (d : Dir) (s : State) : (turnAdvance d s).result = s.result := rfl
@[simp] theorem turnAdvance_failReg (d : Dir) (s : State) : (turnAdvance d s).failReg = s.failReg := rfl
@[simp] theorem turnAdvance_log (d : Dir) (s : State) : (turnAdvance d s).log = s.log := rfl
@[simp] theorem turnAdvance_host (d : Dir) (s : State) : (turnAdvance d s).host = s.host := rfl
@[simp] theorem turnAdvance_transport (d : Dir) (s : State) : (turnAdvance d s).transport = s.transport := rfl
@[simp] theorem turnAdvance_dwells (d : Dir) (s : State) : (turnAdvance d s).dwells = s.dwells := rfl
@[simp] theorem turnAdvance_cfg (d : Dir) (s : State) : (turnAdvance d s).cfg = s.cfg := rfl

@[simp] theorem resetBlock_seq (st : Option DevAddr) (s : State) : (resetBlock st s).seq = .idle := rfl
@[simp] theorem resetBlock_chipInit (st : Option DevAddr) (s : State) : (resetBlock st s).chipInit = false := rfl
@[simp] theorem resetBlock_trimMult (st : Option DevAddr) (s : State) : (resetBlock st s).trimMult = s.cfg.lit.multRst := rfl
@[simp] theorem resetBlock_trimZero (st : Option DevAddr) (s : State) : (resetBlock st s).trimZero = s.cfg.lit.zeroRst := rfl
@[simp] theorem resetBlock_spr1 (st : Option DevAddr) (s : State) : (resetBlock st s).spr1 = s.cfg.lit.sprRst := rfl
@[simp] theorem resetBlock_spr2 (st : Option DevAddr) (s : State) : (resetBlock st s).spr2 = s.cfg.lit.sprRst := rfl
@[simp] theorem resetBlock_phase (st : Option DevAddr) (s : State) : (resetBlock st s).phase = 0 := rfl
@[simp] theorem resetBlock_stepI (st : Option DevAddr) (s : State) : (resetBlock st s).stepI = 0 := rfl
@[simp] theorem resetBlock_result (st : Option DevAddr) (s : State) : (resetBlock st s).result = .none := rfl
@[simp] theorem resetBlock_failReg (st : Option DevAddr) (s : State) : (resetBlock st s).failReg = 0x00 := rfl
@[simp] theorem resetBlock_log (st : Option DevAddr) (s : State) : (resetBlock st s).log = s.log := rfl
@[simp] theorem resetBlock_host (st : Option DevAddr) (s : State) : (resetBlock st s).host = s.host := rfl
@[simp] theorem resetBlock_transport (st : Option DevAddr) (s : State) : (resetBlock st s).transport = s.transport := rfl
@[simp] theorem resetBlock_dwells (st : Option DevAddr) (s : State) : (resetBlock st s).dwells = s.dwells := rfl
@[simp] theorem resetBlock_cfg (st : Option DevAddr) (s : State) : (resetBlock st s).cfg = { s.cfg with devAddr := st.getD s.cfg.devAddr } := rfl

@[simp] theorem present_seq (w : Word) (s : State) : (s.present w).seq = .idle := rfl
@[simp] theorem present_chipInit (w : Word) (s : State) : (s.present w).chipInit = s.chipInit := rfl
@[simp] theorem present_trimMult (w : Word) (s : State) : (s.present w).trimMult = s.trimMult := rfl
@[simp] theorem present_trimZero (w : Word) (s : State) : (s.present w).trimZero = s.trimZero := rfl
@[simp] theorem present_spr1 (w : Word) (s : State) : (s.present w).spr1 = s.spr1 := rfl
@[simp] theorem present_spr2 (w : Word) (s : State) : (s.present w).spr2 = s.spr2 := rfl
@[simp] theorem present_phase (w : Word) (s : State) : (s.present w).phase = s.phase := rfl
@[simp] theorem present_stepI (w : Word) (s : State) : (s.present w).stepI = s.stepI := rfl
@[simp] theorem present_result (w : Word) (s : State) : (s.present w).result = s.result := rfl
@[simp] theorem present_failReg (w : Word) (s : State) : (s.present w).failReg = s.failReg := rfl
@[simp] theorem present_log (w : Word) (s : State) : (s.present w).log = s.log := rfl
@[simp] theorem present_host (w : Word) (s : State) : (s.present w).host = .cmd w :: s.host := rfl
@[simp] theorem present_transport (w : Word) (s : State) : (s.present w).transport = s.transport := rfl
@[simp] theorem present_dwells (w : Word) (s : State) : (s.present w).dwells = s.dwells := rfl
@[simp] theorem present_cfg (w : Word) (s : State) : (s.present w).cfg = s.cfg := rfl

@[simp] theorem holdAt_chipInit (p : Point) (s : State) : (s.holdAt p).chipInit = s.chipInit := by
  unfold State.holdAt; split <;> rfl
@[simp] theorem holdAt_trimMult (p : Point) (s : State) : (s.holdAt p).trimMult = s.trimMult := by
  unfold State.holdAt; split <;> rfl
@[simp] theorem holdAt_trimZero (p : Point) (s : State) : (s.holdAt p).trimZero = s.trimZero := by
  unfold State.holdAt; split <;> rfl
@[simp] theorem holdAt_spr1 (p : Point) (s : State) : (s.holdAt p).spr1 = s.spr1 := by
  unfold State.holdAt; split <;> rfl
@[simp] theorem holdAt_spr2 (p : Point) (s : State) : (s.holdAt p).spr2 = s.spr2 := by
  unfold State.holdAt; split <;> rfl
@[simp] theorem holdAt_phase (p : Point) (s : State) : (s.holdAt p).phase = s.phase := by
  unfold State.holdAt; split <;> rfl
@[simp] theorem holdAt_stepI (p : Point) (s : State) : (s.holdAt p).stepI = s.stepI := by
  unfold State.holdAt; split <;> rfl
@[simp] theorem holdAt_result (p : Point) (s : State) : (s.holdAt p).result = s.result := by
  unfold State.holdAt; split <;> rfl
@[simp] theorem holdAt_failReg (p : Point) (s : State) : (s.holdAt p).failReg = s.failReg := by
  unfold State.holdAt; split <;> rfl
@[simp] theorem holdAt_log (p : Point) (s : State) : (s.holdAt p).log = s.log := by
  unfold State.holdAt; split <;> rfl
@[simp] theorem holdAt_host (p : Point) (s : State) : (s.holdAt p).host = s.host := by
  unfold State.holdAt; split <;> rfl
@[simp] theorem holdAt_transport (p : Point) (s : State) : (s.holdAt p).transport = s.transport := by
  unfold State.holdAt; split <;> rfl
@[simp] theorem holdAt_dwells (p : Point) (s : State) : (s.holdAt p).dwells = s.dwells := by
  unfold State.holdAt; split <;> rfl
@[simp] theorem holdAt_cfg (p : Point) (s : State) : (s.holdAt p).cfg = s.cfg := by
  unfold State.holdAt; split <;> rfl
@[simp] theorem holdAt_busy (w : Word) (p q : Point) (s : State) (h : s.seq = .busy w q) :
    (s.holdAt p).seq = .busy w p := by
  simp [State.holdAt, h]

@[simp] theorem setSprReg_seq (k : Nat) (v : BitVec 16) (s : State) : (s.setSprReg k v).seq = s.seq := by
  unfold State.setSprReg; split <;> rfl
@[simp] theorem setSprReg_chipInit (k : Nat) (v : BitVec 16) (s : State) : (s.setSprReg k v).chipInit = s.chipInit := by
  unfold State.setSprReg; split <;> rfl
@[simp] theorem setSprReg_trimMult (k : Nat) (v : BitVec 16) (s : State) : (s.setSprReg k v).trimMult = s.trimMult := by
  unfold State.setSprReg; split <;> rfl
@[simp] theorem setSprReg_trimZero (k : Nat) (v : BitVec 16) (s : State) : (s.setSprReg k v).trimZero = s.trimZero := by
  unfold State.setSprReg; split <;> rfl
@[simp] theorem setSprReg_phase (k : Nat) (v : BitVec 16) (s : State) : (s.setSprReg k v).phase = s.phase := by
  unfold State.setSprReg; split <;> rfl
@[simp] theorem setSprReg_stepI (k : Nat) (v : BitVec 16) (s : State) : (s.setSprReg k v).stepI = s.stepI := by
  unfold State.setSprReg; split <;> rfl
@[simp] theorem setSprReg_result (k : Nat) (v : BitVec 16) (s : State) : (s.setSprReg k v).result = s.result := by
  unfold State.setSprReg; split <;> rfl
@[simp] theorem setSprReg_failReg (k : Nat) (v : BitVec 16) (s : State) : (s.setSprReg k v).failReg = s.failReg := by
  unfold State.setSprReg; split <;> rfl
@[simp] theorem setSprReg_log (k : Nat) (v : BitVec 16) (s : State) : (s.setSprReg k v).log = s.log := by
  unfold State.setSprReg; split <;> rfl
@[simp] theorem setSprReg_host (k : Nat) (v : BitVec 16) (s : State) : (s.setSprReg k v).host = s.host := by
  unfold State.setSprReg; split <;> rfl
@[simp] theorem setSprReg_transport (k : Nat) (v : BitVec 16) (s : State) : (s.setSprReg k v).transport = s.transport := by
  unfold State.setSprReg; split <;> rfl
@[simp] theorem setSprReg_dwells (k : Nat) (v : BitVec 16) (s : State) : (s.setSprReg k v).dwells = s.dwells := by
  unfold State.setSprReg; split <;> rfl
@[simp] theorem setSprReg_cfg (k : Nat) (v : BitVec 16) (s : State) : (s.setSprReg k v).cfg = s.cfg := by
  unfold State.setSprReg; split <;> rfl
@[simp] theorem setSprReg_spr1 (v : BitVec 16) (s : State) :
    (s.setSprReg 1 v).spr1 = v ∧ (s.setSprReg 1 v).spr2 = s.spr2 := ⟨rfl, rfl⟩
@[simp] theorem setSprReg_spr2 (v : BitVec 16) (s : State) :
    (s.setSprReg 2 v).spr2 = v ∧ (s.setSprReg 2 v).spr1 = s.spr1 := ⟨rfl, rfl⟩

end Sys2Proof.Machine
end

