-- ==== Sys2Proof/Laws/Ops.lean ====
section
/-! SUPPORT. One lemma for each shared operation that says once everything it can do; proofs about commands cite these and
do not unfold the operations. -/

namespace Sys2Proof.Machine

section Scripts
variable {α : Type} (sc : Script α)

@[simp] theorem script_drop_zero : sc.drop 0 = sc := by simp [Script.drop]

@[simp] theorem script_drop_drop (m n : Nat) : (sc.drop m).drop n = sc.drop (m + n) := by
  simp [Script.drop, List.drop_drop]

@[simp] theorem script_at_drop (m k : Nat) : (sc.drop m).at k = sc.at (m + k) := by
  simp [Script.at, Script.drop, List.getD_eq_getElem?_getD, List.getElem?_drop]

theorem script_head_eq : sc.head = sc.at 0 := rfl

theorem yields_zero (a : α) : sc.Yields 0 a := fun _ h => absurd h (Nat.not_lt_zero _)

theorem yields_mono {m n : Nat} {a : α} (h : sc.Yields n a) (hmn : m ≤ n) : sc.Yields m a :=
  fun k hk => h k (Nat.lt_of_lt_of_le hk hmn)

theorem yields_drop {m n : Nat} {a : α} (h : sc.Yields (m + n) a) : (sc.drop m).Yields n a := by
  intro k hk
  rw [script_at_drop]
  exact h _ (by omega)

theorem yields_add {m n : Nat} {a : α} :
    sc.Yields (m + n) a ↔ sc.Yields m a ∧ (sc.drop m).Yields n a := by
  refine ⟨fun h => ⟨yields_mono sc h (by omega), yields_drop sc h⟩, fun ⟨h1, h2⟩ k hk => ?_⟩
  by_cases hkm : k < m
  · exact h1 k hkm
  · have := h2 (k - m) (by omega)
    rwa [script_at_drop, Nat.add_sub_cancel' (by omega)] at this

theorem yields_rest {n : Nat} : (⟨[], sc.rest⟩ : Script α).Yields n sc.rest := by
  intro k _
  simp [Script.at]

end Scripts

section Sequencing
variable (s t : State)

@[simp] theorem andThen_on (k : State → Flow) : (Flow.on s).andThen k = k s := rfl
@[simp] theorem andThen_off (k : State → Flow) : (Flow.off s).andThen k = .off s := rfl
@[simp] theorem finish_on : (Flow.on s).finish = complete s := rfl
@[simp] theorem finish_off : (Flow.off s).finish = s := rfl

theorem andThen_eq_on {f : Flow} {k : State → Flow} {u : State} :
    f.andThen k = .on u ↔ ∃ t, f = .on t ∧ k t = .on u := by
  cases f <;> simp [Flow.andThen]

@[simp] theorem writeEvent_answered (w v : RegWrite) (r q : Resp) :
    (s.answered w r).writeEvent v q = s.writeEvent v q := rfl

@[simp] theorem wrote_nil : s.wrote [] = s := by simp [State.wrote]

theorem wrote_cons (w : RegWrite) (ws : List RegWrite) :
    s.wrote (w :: ws) = (s.answered w .ok).wrote ws := by
  simp [State.wrote, State.answered, Nat.add_comm, State.writeEvent]

theorem wrote_append (vs ws : List RegWrite) : s.wrote (vs ++ ws) = (s.wrote vs).wrote ws := by
  simp [State.wrote, State.writeEvent]

end Sequencing

section Writes

theorem memWrite_ok {p : Point} {w : RegWrite} {s : State} (h : s.transport.head = .ok) :
    memWrite p w s = .on (s.answered w .ok) := by
  simp [memWrite, h]

theorem memWrite_nack {p : Point} {w : RegWrite} {s : State} (h : s.transport.head = .nack) :
    memWrite p w s = .off (raise (.transport w.reg) (s.answered w .nack)) := by
  simp [memWrite, h]

theorem memWrite_held {p : Point} {w : RegWrite} {s : State}
    (h : s.transport.head = .unanswered ∨ s.transport.head = .unissued) :
    memWrite p w s = .off (s.holdAt p) := by
  rcases h with h | h <;> simp [memWrite, h]

/-- A list of writes whose answers are all OK goes on, with every write in the trace in order. -/
theorem memWrites_ok (pt : Nat → Point) (ws : List RegWrite) :
    ∀ (k : Nat) (s : State), s.transport.Yields ws.length .ok → memWrites pt k ws s = .on (s.wrote ws) := by
  induction ws with
  | nil => intro k s _; simp [memWrites]
  | cons w ws ih =>
    intro k s h
    have h0 : s.transport.head = .ok := h 0 (by simp)
    have h1 : (s.answered w .ok).transport.Yields ws.length .ok := by
      intro j hj
      have := h (1 + j) (by simp; omega)
      simpa using this
    simp [memWrites, memWrite_ok h0, ih (k + 1) _ h1, wrote_cons]

/-- Everything a list of writes can do: all are answered OK and it goes on; or the write after some OK ones is answered
NACK and the command is aborted there; or it is held there. -/
theorem memWrites_cases (pt : Nat → Point) (ws : List RegWrite) :
    ∀ (k : Nat) (s : State),
      (s.transport.Yields ws.length .ok ∧ memWrites pt k ws s = .on (s.wrote ws)) ∨
      ∃ vs w us, ws = vs ++ w :: us ∧ s.transport.Yields vs.length .ok ∧
        ((s.transport.at vs.length = .nack ∧
            memWrites pt k ws s = .off (raise (.transport w.reg) ((s.wrote vs).answered w .nack))) ∨
          ((s.transport.at vs.length = .unanswered ∨ s.transport.at vs.length = .unissued) ∧
            memWrites pt k ws s = .off ((s.wrote vs).holdAt (pt (k + vs.length))))) := by
  induction ws with
  | nil => intro k s; exact .inl ⟨yields_zero _ _, by simp [memWrites]⟩
  | cons w ws ih =>
    intro k s
    cases h0 : s.transport.head with
    | nack =>
      exact .inr ⟨[], w, ws, rfl, yields_zero _ _, .inl ⟨h0, by simp [memWrites, memWrite_nack h0]⟩⟩
    | unanswered =>
      exact .inr ⟨[], w, ws, rfl, yields_zero _ _, .inr ⟨.inl h0, by simp [memWrites, memWrite_held (.inl h0)]⟩⟩
    | unissued =>
      exact .inr ⟨[], w, ws, rfl, yields_zero _ _, .inr ⟨.inr h0, by simp [memWrites, memWrite_held (.inr h0)]⟩⟩
    | ok =>
      have step : memWrites pt k (w :: ws) s = memWrites pt (k + 1) ws (s.answered w .ok) := by
        simp [memWrites, memWrite_ok h0]
      have cons_yields : ∀ n, (s.answered w .ok).transport.Yields n .ok → s.transport.Yields (n + 1) .ok := by
        intro n h j hj
        cases j with
        | zero => exact h0
        | succ j => simpa [Nat.add_comm] using h j (by omega)
      rcases ih (k + 1) (s.answered w .ok) with ⟨hy, he⟩ | ⟨vs, v, us, rfl, hy, hc⟩
      · exact .inl ⟨by simpa using cons_yields _ hy, by rw [step, he, wrote_cons]⟩
      · refine .inr ⟨w :: vs, v, us, rfl, by simpa using cons_yields _ hy, ?_⟩
        have hat : s.transport.at (vs.length + 1) = (s.answered w .ok).transport.at vs.length := by
          simp [Nat.add_comm]
        have hk : k + (w :: vs).length = k + 1 + vs.length := by simp; omega
        rw [step, hk, List.length_cons, hat, wrote_cons]
        exact hc

end Writes

section Dwells

theorem dwell_elapses {s : State} (h : s.dwells.head = .elapses) : dwell s = .on s.dwelt := by
  simp [dwell, h]

theorem dwell_holds {s : State} (h : s.dwells.head = .holds) : dwell s = .off (s.holdAt .dwell) := by
  simp [dwell, h]

end Dwells

section Wake

/-- This hardware's parameters fit what the spec fixes around them. -/
theorem lit_sound : SoundLiterals lit := by
  unfold SoundLiterals
  decide

/-- The wake sequence is the six writes of R101 at this hardware's parameters. -/
theorem wakeWrites_lit : wakeWrites lit =
    [⟨0xFE, 0x85⟩, ⟨0xFA, 0x00⟩, ⟨0xFB, 0x00⟩, ⟨0xFC, 0x00⟩, ⟨0xFD, 0x00⟩, ⟨0x00, 0x01⟩] := by decide

theorem ensureReady_ready {s : State} (p : Point) (h : s.chipInit = true) : ensureReady p s = .on s := by
  cases p <;> simp [ensureReady, h]

theorem ensureReady_past {s : State} (k : Nat) : ensureReady (.body k) s = .on s := rfl

theorem ensureReady_dwell {s : State} : ensureReady .dwell s = .on s := rfl

theorem ensureReady_wake {s : State} (k : Nat) (h : s.chipInit = false) :
    ensureReady (.wake k) s = (memWrites .wake k ((wakeWrites s.cfg.lit).drop k) s).andThen fun t => .on t.markReady := by
  simp [ensureReady, h]

/-- EnsureReady from its start, every write answered OK (R101): `wakePart`, and CHIP_INIT is 1. -/
theorem ensureReady_ok {s : State} (h : s.transport.Yields (wakePart s).length .ok) :
    ensureReady (.wake 0) s = .on (s.wrote (wakePart s)).markReady := by
  cases hc : s.chipInit with
  | true =>
    have hw : wakePart s = [] := by simp [wakePart, hc]
    have hm : s.markReady = s := by rw [State.markReady, ← hc]
    simp [ensureReady_ready _ hc, hw, hm]
  | false =>
    have hw : wakePart s = wakeWrites s.cfg.lit := by simp [wakePart, hc]
    rw [ensureReady_wake 0 hc, List.drop_zero, memWrites_ok _ _ _ _ (hw ▸ h), hw]
    rfl

/-- Everything EnsureReady can do from its start. -/
theorem ensureReady_cases (s : State) :
    (s.transport.Yields (wakePart s).length .ok ∧ ensureReady (.wake 0) s = .on (s.wrote (wakePart s)).markReady) ∨
    ∃ vs w us, wakePart s = vs ++ w :: us ∧ s.chipInit = false ∧ s.transport.Yields vs.length .ok ∧
      ((s.transport.at vs.length = .nack ∧
          ensureReady (.wake 0) s = .off (raise (.transport w.reg) ((s.wrote vs).answered w .nack))) ∨
        ((s.transport.at vs.length = .unanswered ∨ s.transport.at vs.length = .unissued) ∧
          ensureReady (.wake 0) s = .off ((s.wrote vs).holdAt (.wake vs.length)))) := by
  cases hc : s.chipInit with
  | true =>
    have hw : wakePart s = [] := by simp [wakePart, hc]
    exact .inl ⟨by simp [hw, yields_zero], ensureReady_ok (by simp [hw, yields_zero])⟩
  | false =>
    have hw : wakePart s = wakeWrites s.cfg.lit := by simp [wakePart, hc]
    rcases memWrites_cases .wake (wakeWrites s.cfg.lit) 0 s with ⟨hy, _⟩ | ⟨vs, w, us, he, hy, hcase⟩
    · exact .inl ⟨hw ▸ hy, ensureReady_ok (hw ▸ hy)⟩
    · refine .inr ⟨vs, w, us, hw ▸ he, rfl, hy, ?_⟩
      rw [ensureReady_wake 0 hc, List.drop_zero]
      rcases hcase with ⟨ha, hf⟩ | ⟨ha, hf⟩
      · exact .inl ⟨ha, by rw [hf]; rfl⟩
      · exact .inr ⟨ha, by rw [hf]; simp⟩

end Wake

section Images

@[simp] theorem ext_holdAt (p : Point) (s : State) (r : Byte) : (s.holdAt p).ext r = s.ext r := by
  simp [State.ext]

/-- A write changes the image of its own register only (R58). -/
theorem ext_answered_other {w : RegWrite} {q : Resp} {s : State} {r : Byte} (h : w.reg ≠ r) :
    (s.answered w q).ext r = s.ext r := by
  simp [State.ext, extOfLog, State.writeEvent, h]

/-- A write answered OK makes the image of its register its value (R58). -/
theorem ext_answered_ok (w : RegWrite) (s : State) : (s.answered w .ok).ext w.reg = .among [w.val] := by
  simp [State.ext, extOfLog, State.writeEvent]

/-- A write answered NACK or LOST leaves the image of its register as before or as the value written (R58). -/
theorem ext_answered_failed {q : Resp} (h : q ≠ .ok) (w : RegWrite) (s : State) :
    (s.answered w q).ext w.reg = (s.ext w.reg).orValue w.val := by
  cases q <;> simp_all [State.ext, extOfLog, State.writeEvent]

/-- What an image admits after a failed write (R58). -/
theorem admits_orValue (img : RegImage) (v b : Byte) : (img.orValue v).Admits b ↔ img.Admits b ∨ b = v := by
  cases img with
  | any => simp [RegImage.orValue, RegImage.Admits]
  | among vs =>
    by_cases h : v ∈ vs
    · simp only [RegImage.orValue, h, if_true, RegImage.Admits]
      exact ⟨.inl, fun o => o.elim id fun e => e ▸ h⟩
    · simp [RegImage.orValue, h, RegImage.Admits, or_comm]

@[simp] theorem ext_dwelt (s : State) (r : Byte) : s.dwelt.ext r = s.ext r := by
  simp [State.ext, extOfLog]

end Images

end Sys2Proof.Machine
end

