-- ==== Sys2Proof/Laws/Commands.lean ====
section
/-! SUPPORT. What a whole command can do: the completion lemma that every register-writing command shares, one iteration of a
turn, and the induction over a command packaged once (what its primitives keep, the command keeps). -/

namespace Sys2Proof.Machine

section Completion

@[simp] theorem wakePart_accept (w : Word) (s : State) : wakePart (accept w s) = wakePart s := rfl

/-- A command's own list of writes, all answered OK, from the start of the list. -/
theorem bodyFrom_ok {list : State → List RegWrite} {s : State} (k : Nat)
    (h : s.transport.Yields (list s).length .ok) :
    bodyFrom list (.wake k) s = .on (s.wrote (list s)) := by
  simpa [bodyFrom, Point.index] using memWrites_ok .body (list s) 0 s h

/-- The state that is left when a command's writes are all answered OK (R176). -/
theorem complete_wrote (w : Word) (s : State) (vs ws : List RegWrite) :
    complete ((((accept w s).wrote vs).markReady).wrote ws) = s.completedAfter (vs ++ ws) := by
  simp [complete, accept, State.wrote, State.markReady, State.completedAfter, State.writeEvent]

/-- A register-writing command whose writes are all answered OK completes, and changes nothing else (R103, R176). -/
theorem command_completes {list : State → List RegWrite} {w : Word} {s : State} {ws : List RegWrite}
    (hlist : list ((accept w s).wrote (wakePart s)).markReady = ws)
    (h : s.transport.Yields ((wakePart s).length + ws.length) .ok) :
    registerCommand (bodyFrom list) (.wake 0) (accept w s) = s.completedAfter (wakePart s ++ ws) := by
  obtain ⟨h1, h2⟩ := (yields_add s.transport).mp h
  have hr : ensureReady (.wake 0) (accept w s) = .on ((accept w s).wrote (wakePart s)).markReady := by
    simpa using ensureReady_ok (s := accept w s) (by simpa using h1)
  have hy : (((accept w s).wrote (wakePart s)).markReady).transport.Yields ws.length .ok := h2
  have hb := bodyFrom_ok (list := list) (s := ((accept w s).wrote (wakePart s)).markReady) 0 (by rwa [hlist])
  have hb' : bodyFrom list (.wake 0) ((accept w s).wrote (wakePart s)).markReady =
      .on (((accept w s).wrote (wakePart s)).markReady.wrote ws) := by rw [hb, hlist]
  simp [registerCommand, hr, hb', complete_wrote]

/-- EnsureReady fails at a NACK, and the command with it: CHIP_INIT stays 0 (R102, R174). -/
theorem command_wake_nack {own : Point → State → Flow} {w : Word} {s : State} {vs us : List RegWrite} {v : RegWrite}
    (hw : wakePart s = vs ++ v :: us) (hy : s.transport.Yields vs.length .ok) (hn : s.transport.at vs.length = .nack) :
    registerCommand own (.wake 0) (accept w s) = s.abortedAt vs v := by
  rcases ensureReady_cases (accept w s) with ⟨hall, _⟩ | ⟨vs', v', us', he, _, hy', hc⟩
  · have := hall vs.length (by simp [hw])
    simp [hn] at this
  · have hlen : vs'.length = vs.length := by
      rcases Nat.lt_trichotomy vs'.length vs.length with hlt | heq | hgt
      · have hok := hy _ hlt
        rcases hc with ⟨ha, _⟩ | ⟨ha, _⟩
        · exact absurd (ha.symm.trans hok) (by decide)
        · rcases ha with ha | ha <;> exact absurd (ha.symm.trans hok) (by decide)
      · exact heq
      · have hok := hy' _ hgt
        exact absurd (hn.symm.trans hok) (by decide)
    have hsplit : vs' = vs ∧ v' :: us' = v :: us :=
      List.append_inj (he.symm.trans (by simpa using hw)) hlen
    obtain ⟨rfl, hcons⟩ := hsplit
    obtain ⟨rfl, rfl⟩ := List.cons.inj hcons
    rcases hc with ⟨_, hf⟩ | ⟨ha, _⟩
    · rw [registerCommand, hf]
      simp [State.abortedAt, State.wrote, State.answered, accept, raise, Error.result, Error.failReg, State.writeEvent]
    · rcases ha with ha | ha <;> exact absurd (ha.symm.trans hn) (by decide)

end Completion

section Turns

/-- One iteration of a turn, its four writes answered OK and its dwell elapsed (R133). -/
theorem turnLoop_succ_ok {k n : Nat} {dir : Dir} {s : State}
    (hw : s.transport.Yields (stepWriteList k s).length .ok) (hd : s.dwells.head = .elapses) :
    turnLoop k dir (n + 1) (.body 0) s =
      turnLoop k dir n (.body 0) (turnAdvance dir (s.wrote (stepWriteList k s)).dwelt) := by
  have hb : bodyFrom (stepWriteList k) (.body 0) s = .on (s.wrote (stepWriteList k s)) := by
    simpa [bodyFrom, Point.index] using memWrites_ok .body (stepWriteList k s) 0 s hw
  have hd' : dwell (s.wrote (stepWriteList k s)) = .on (s.wrote (stepWriteList k s)).dwelt := dwell_elapses hd
  simp [turnLoop, hb, hd']

@[simp] theorem stepWriteList_length (k : Nat) (s : State) : (stepWriteList k s).length = 4 := by
  simp [stepWriteList, motorDriveList]

end Turns

section Keeping

/-- The state a flow has reached. -/
def Flow.state : Flow → State
  | .on s => s
  | .off s => s

/-- What the primitives of a command keep, when it writes only writes that satisfy `W`. -/
structure Kept (W : RegWrite → Prop) (P : State → Prop) : Prop where
  answered : ∀ s w q, W w → q ≠ .lost → P s → P (s.answered w q)
  raise : ∀ s e, P s → P (raise e s)
  complete : ∀ s, P s → P (complete s)
  hold : ∀ s p, P s → P (s.holdAt p)
  dwelt : ∀ s, P s → P s.dwelt
  ready : ∀ s, P s → P s.markReady
  start : ∀ s, P s → P (turnStart s)
  advance : ∀ s d, P s → P (turnAdvance d s)

variable {W : RegWrite → Prop} {P : State → Prop} (kept : Kept W P)
include kept

theorem memWrites_kept (pt : Nat → Point) (ws : List RegWrite) (hW : ∀ w ∈ ws, W w) :
    ∀ (k : Nat) (s : State), P s → P (memWrites pt k ws s).state := by
  induction ws with
  | nil => intro k s h; exact h
  | cons w ws ih =>
    intro k s h
    have hw : W w := hW w (by simp)
    cases h0 : s.transport.head with
    | ok =>
      simp only [memWrites, memWrite_ok h0]
      exact ih (fun v hv => hW v (by simp [hv])) _ _ (kept.answered _ _ _ hw (by decide) h)
    | nack =>
      simp only [memWrites, memWrite_nack h0]
      exact kept.raise _ _ (kept.answered _ _ _ hw (by decide) h)
    | unanswered =>
      simp only [memWrites, memWrite_held (.inl h0)]
      exact kept.hold _ _ h
    | unissued =>
      simp only [memWrites, memWrite_held (.inr h0)]
      exact kept.hold _ _ h

omit kept in
theorem andThen_kept {f : Flow} {g : State → Flow} (hf : P f.state) (hg : ∀ s, P s → P (g s).state) :
    P (f.andThen g).state := by
  cases f with
  | on s => exact hg s hf
  | off s => exact hf

theorem finish_kept {f : Flow} (hf : P f.state) : P f.finish := by
  cases f with
  | on s => exact kept.complete s hf
  | off s => exact hf

theorem ensureReady_kept (hW : ∀ s, P s → ∀ w ∈ wakeWrites s.cfg.lit, W w) (p : Point) {s : State} (h : P s) :
    P (ensureReady p s).state := by
  cases p with
  | wake k =>
    cases hc : s.chipInit with
    | true => rw [ensureReady_ready _ hc]; exact h
    | false =>
      rw [ensureReady_wake k hc]
      exact andThen_kept
        (memWrites_kept kept _ _ (fun w hw => hW s h w (List.mem_of_mem_drop hw)) _ _ h) fun t ht => kept.ready t ht
  | body k => exact h
  | dwell => exact h

theorem bodyFrom_kept {list : State → List RegWrite} (hW : ∀ s, P s → ∀ w ∈ list s, W w) (p : Point) {s : State} (h : P s) :
    P (bodyFrom list p s).state :=
  memWrites_kept kept _ _ (fun w hw => hW s h w (List.mem_of_mem_drop hw)) _ _ h

theorem dwell_kept {s : State} (h : P s) : P (dwell s).state := by
  cases hd : s.dwells.head with
  | elapses => rw [dwell_elapses hd]; exact kept.dwelt s h
  | holds => rw [dwell_holds hd]; exact kept.hold s _ h

theorem turnLoop_kept {k : Nat} {dir : Dir} (hW : ∀ s, P s → ∀ w ∈ stepWriteList k s, W w) :
    ∀ (n : Nat) (p : Point) (s : State), P s → P (turnLoop k dir n p s).state := by
  intro n
  induction n with
  | zero => intro p s h; exact h
  | succ n ih =>
    intro p s h
    have hb : P ((bodyFrom (stepWriteList k) p s).andThen dwell).state :=
      andThen_kept (bodyFrom_kept kept hW p h) fun t ht => dwell_kept kept ht
    simp only [turnLoop]
    split
    · next t ht => rw [ht] at hb; exact hb
    · next t ht => rw [ht] at hb; exact ih _ _ (kept.advance _ _ hb)

theorem turnSteps_kept {k : Nat} {dir : Dir} (hW : ∀ s, P s → ∀ w ∈ stepWriteList k s, W w) (steps : Nat) (p : Point)
    {s : State} (h : P s) : P (turnSteps k dir steps p s).state := by
  cases p with
  | wake j => exact turnLoop_kept kept hW _ _ _ (kept.start s h)
  | body j => exact turnLoop_kept kept hW _ _ _ h
  | dwell => exact turnLoop_kept kept hW _ _ _ h

/-- What the primitives keep, a register-writing command keeps. -/
theorem registerCommand_kept {own : Point → State → Flow} (hwake : ∀ s, P s → ∀ w ∈ wakeWrites s.cfg.lit, W w)
    (hown : ∀ p s, P s → P (own p s).state) (p : Point) {s : State} (h : P s) : P (registerCommand own p s) :=
  finish_kept kept (andThen_kept (ensureReady_kept kept hwake p h) (hown p))

/-- What the primitives and its own register write keep, a setter keeps. -/
theorem setterCommand_kept {set : State → State} (hwake : ∀ s, P s → ∀ w ∈ wakeWrites s.cfg.lit, W w) (hset : ∀ s, P s → P (set s))
    (p : Point) {s : State} (h : P s) : P (setterCommand set p s) := by
  refine finish_kept kept (andThen_kept ?_ hset)
  split
  · exact ensureReady_kept kept hwake p h
  · exact h

end Keeping

end Sys2Proof.Machine
end

