-- ==== Sys2Proof/Laws/Decode.lean ====
section
/-! SUPPORT. The fields of an assembled word, and what the decoder says of a word that obeys its form. -/

namespace Sys2Proof

/-- R72: the servos are 1 to N_SERVO. -/
theorem servoExists_iff {L : Literals} {n : Nat} : servoExists L n = true ↔ 1 ≤ n ∧ n ≤ L.nServo := by
  rw [servoExists, Bool.and_eq_true, decide_eq_true_iff, decide_eq_true_iff]

/-- R72: the motors are 1 to N_MOTOR. -/
theorem motorExists_iff {L : Literals} {m : Nat} : motorExists L m = true ↔ 1 ≤ m ∧ m ≤ L.nMotor := by
  rw [motorExists, Bool.and_eq_true, decide_eq_true_iff, decide_eq_true_iff]

/-- R72: the steppers are 1 to N_STEPPER. -/
theorem stepperExists_iff {L : Literals} {k : Nat} : stepperExists L k = true ↔ 1 ≤ k ∧ k ≤ L.nStepper := by
  rw [stepperExists, Bool.and_eq_true, decide_eq_true_iff, decide_eq_true_iff]

section Fields
variable (op ch : BitVec 4) (d : BitVec 1) (imm : Imm)

@[simp] theorem opOf_assemble : opOf (assemble op ch d imm) = op := by
  apply BitVec.eq_of_getLsbD_eq
  intro i hi
  simp only [opOf, assemble, BitVec.getLsbD_extractLsb', BitVec.getLsbD_append, hi, decide_true, Bool.true_and]
  rw [if_neg (by omega), if_neg (by omega), if_neg (by omega), if_neg (by omega)]
  congr 1; omega

@[simp] theorem chOf_assemble : chOf (assemble op ch d imm) = ch := by
  apply BitVec.eq_of_getLsbD_eq
  intro i hi
  simp only [chOf, assemble, BitVec.getLsbD_extractLsb', BitVec.getLsbD_append, hi, decide_true, Bool.true_and]
  rw [if_neg (by omega), if_neg (by omega), if_neg (by omega), if_pos (by omega)]
  congr 1; omega

@[simp] theorem dOf_assemble : dOf (assemble op ch d imm) = d := by
  apply BitVec.eq_of_getLsbD_eq
  intro i hi
  simp only [dOf, assemble, BitVec.getLsbD_extractLsb', BitVec.getLsbD_append, hi, decide_true, Bool.true_and]
  rw [if_neg (by omega), if_neg (by omega), if_pos (by omega)]
  congr 1; omega

@[simp] theorem rsvOf_assemble : rsvOf (assemble op ch d imm) = 0 := by
  apply BitVec.eq_of_getLsbD_eq
  intro i hi
  simp only [rsvOf, assemble, BitVec.getLsbD_extractLsb', BitVec.getLsbD_append, hi, decide_true, Bool.true_and]
  rw [if_neg (by omega), if_pos (by omega)]
  simp

@[simp] theorem immOf_assemble : immOf (assemble op ch d imm) = imm := by
  apply BitVec.eq_of_getLsbD_eq
  intro i hi
  simp only [immOf, assemble, BitVec.getLsbD_extractLsb', BitVec.getLsbD_append, hi, decide_true, Bool.true_and]
  rw [if_pos (by omega)]
  congr 1; omega

/-- A word is the assembly of its fields when its reserved bits are 0 (R70). -/
theorem assemble_fields (w : Word) (h : rsvOf w = 0) : assemble (opOf w) (chOf w) (dOf w) (immOf w) = w := by
  apply BitVec.eq_of_getLsbD_eq
  intro i hi
  have hr : ∀ j, j < 7 → w.getLsbD (16 + j) = false := by
    intro j hj
    have := congrArg (fun v => v.getLsbD j) h
    simpa [rsvOf, hj] using this
  simp only [assemble, opOf, chOf, dOf, immOf, BitVec.getLsbD_extractLsb', BitVec.getLsbD_append]
  split
  · simp_all
  · split
    · have := hr (i - 16) (by omega)
      rw [Nat.add_sub_cancel' (by omega)] at this
      simp [this]
    · split
      · have : i = 23 := by omega
        subst this; simp
      · split
        · rw [decide_eq_true (by omega), Bool.true_and]
          congr 1; omega
        · rw [decide_eq_true (by omega), Bool.true_and]
          congr 1; omega

/-- The channel field of an existing channel reads back (R72). -/
theorem chField_toNat {n : Nat} (h : 1 ≤ n) (h' : n ≤ 16) : (chField n).toNat + 1 = n := by
  simp only [chField, BitVec.toNat_ofNat]
  omega

@[simp] theorem dir_bit_roundtrip (dir : Dir) : (if dir.bit = 0 then Dir.forward else Dir.reverse) = dir := by
  cases dir <;> decide

end Fields

section Forms

/-- A word is taken exactly where it breaks no must-be-0 rule of its form (R76). -/
theorem accept_ok_iff (f : Form) (w : Word) (i j : Instr) :
    f.accept w i = .ok j ↔ f.violation w = none ∧ i = j := by
  unfold Form.accept
  split <;> simp_all

/-- What it means to break no rule of a form (R72, R73). -/
theorem violation_none_iff (f : Form) (w : Word) :
    f.violation w = none ↔
      rsvOf w = 0 ∧ (chOf w).toNat < f.channels ∧ (f.hasDir = false → dOf w = 0) ∧ (f.hasImm = false → immOf w = 0) := by
  unfold Form.violation
  split
  · simp_all
  · split
    · simp_all
    · split
      · simp_all
      · split <;> simp_all

end Forms

end Sys2Proof
end

