-- ==== Sys2Proof/Laws/PerInstr.lean ====
section
/-! SUPPORT. The family of statements made for every command as syntax: its encoding carries its opcode and breaks no
must-be-0 rule of its operand form. -/

namespace Sys2Proof.Laws

/-- The OP value of a command (R77). -/
def opcodeOf : Instr → BitVec 4
  | .init => 0x1
  | .servoWrite _ _ => 0x2
  | .servoStop _ => 0x3
  | .motorOn _ _ _ => 0x4
  | .motorOff _ => 0x5
  | .stepTurn _ _ _ => 0x6
  | .stepAngle _ _ _ => 0x7
  | .setMult _ => 0x8
  | .setZero _ => 0x9
  | .setSpr _ _ => 0xA
  | .reducePulse _ => 0xB
  | .allOff => 0xC

/-- The operand form of a command (R76). -/
def formOf (L : Literals) : Instr → Form
  | .init => .fn
  | .servoWrite _ _ => .fsi L
  | .servoStop _ => .fs L
  | .motorOn _ _ _ => .fmdi L
  | .motorOff _ => .fm L
  | .stepTurn _ _ _ => .ftdi L
  | .stepAngle _ _ _ => .ftdi L
  | .setMult _ => .fi
  | .setZero _ => .fi
  | .setSpr _ _ => .fti L
  | .reducePulse _ => .fi
  | .allOff => .fn

/-- The word of an assembled command obeys a form (R76). -/
theorem violation_assemble (f : Form) (op ch : BitVec 4) (d : BitVec 1) (imm : Imm)
    (hc : ch.toNat < f.channels) (hd : f.hasDir = false → d = 0) (hi : f.hasImm = false → imm = 0) :
    f.violation (assemble op ch d imm) = none := by
  rw [violation_none_iff]
  simpa using ⟨hc, hd, hi⟩

/-- The channel field of a channel that exists has no bit that its form forbids (R72). -/
theorem chField_lt {n c : Nat} (h1 : 1 ≤ n) (hn : n ≤ c) (hc : c ≤ 16) : (chField n).toNat < c := by
  have := chField_toNat h1 (by omega)
  omega

namespace EncodesInForm

/-- Every channel number fits the CH field (R70, R72). -/
def ChannelsFit (L : Literals) : Prop := L.nServo ≤ 16 ∧ L.nMotor ≤ 16 ∧ L.nStepper ≤ 16

/-- A well-formed command's word carries its opcode and obeys its form (R76, R77, R80), whatever the channel counts are. -/
def Statement (i : Instr) : Prop :=
  ∀ L : Literals, ChannelsFit L → i.WellFormed L →
    opOf (encode i) = opcodeOf i ∧ (formOf L i).violation (encode i) = none

theorem init : Statement .init := fun L _ _ =>
  ⟨by simp [encode, opcodeOf], violation_assemble _ _ _ _ _ (by simp [formOf, Form.fn]) (by simp) (by simp)⟩

theorem servoWrite (n : Nat) (imm : Imm) : Statement (.servoWrite n imm) := fun L hc h => by
  have h := servoExists_iff.mp h
  exact ⟨by simp [encode, opcodeOf],
    violation_assemble _ _ _ _ _ (chField_lt h.1 h.2 hc.1) (by simp) (by simp [formOf, Form.fsi])⟩

theorem servoStop (n : Nat) : Statement (.servoStop n) := fun L hc h => by
  have h := servoExists_iff.mp h
  exact ⟨by simp [encode, opcodeOf],
    violation_assemble _ _ _ _ _ (chField_lt h.1 h.2 hc.1) (by simp) (by simp)⟩

theorem motorOn (m : Nat) (dir : Dir) (imm : Imm) : Statement (.motorOn m dir imm) := fun L hc h => by
  have h := motorExists_iff.mp h
  exact ⟨by simp [encode, opcodeOf],
    violation_assemble _ _ _ _ _ (chField_lt h.1 h.2 hc.2.1) (by simp [formOf, Form.fmdi])
      (by simp [formOf, Form.fmdi])⟩

theorem motorOff (m : Nat) : Statement (.motorOff m) := fun L hc h => by
  have h := motorExists_iff.mp h
  exact ⟨by simp [encode, opcodeOf],
    violation_assemble _ _ _ _ _ (chField_lt h.1 h.2 hc.2.1) (by simp) (by simp)⟩

theorem stepTurn (k : Nat) (dir : Dir) (imm : Imm) : Statement (.stepTurn k dir imm) := fun L hc h => by
  have h := stepperExists_iff.mp h
  exact ⟨by simp [encode, opcodeOf],
    violation_assemble _ _ _ _ _ (chField_lt h.1 h.2 hc.2.2) (by simp [formOf, Form.ftdi])
      (by simp [formOf, Form.ftdi])⟩

theorem stepAngle (k : Nat) (dir : Dir) (imm : Imm) : Statement (.stepAngle k dir imm) := fun L hc h => by
  have h := stepperExists_iff.mp h
  exact ⟨by simp [encode, opcodeOf],
    violation_assemble _ _ _ _ _ (chField_lt h.1 h.2 hc.2.2) (by simp [formOf, Form.ftdi])
      (by simp [formOf, Form.ftdi])⟩

theorem setMult (imm : Imm) : Statement (.setMult imm) := fun L _ _ =>
  ⟨by simp [encode, opcodeOf], violation_assemble _ _ _ _ _ (by simp [formOf, Form.fi]) (by simp)
    (by simp [formOf, Form.fi])⟩

theorem setZero (imm : Imm) : Statement (.setZero imm) := fun L _ _ =>
  ⟨by simp [encode, opcodeOf], violation_assemble _ _ _ _ _ (by simp [formOf, Form.fi]) (by simp)
    (by simp [formOf, Form.fi])⟩

theorem setSpr (k : Nat) (imm : Imm) : Statement (.setSpr k imm) := fun L hc h => by
  have h := stepperExists_iff.mp h
  exact ⟨by simp [encode, opcodeOf],
    violation_assemble _ _ _ _ _ (chField_lt h.1 h.2 hc.2.2) (by simp) (by simp [formOf, Form.fti])⟩

theorem reducePulse (imm : Imm) : Statement (.reducePulse imm) := fun L _ _ =>
  ⟨by simp [encode, opcodeOf], violation_assemble _ _ _ _ _ (by simp [formOf, Form.fi]) (by simp)
    (by simp [formOf, Form.fi])⟩

theorem allOff : Statement .allOff := fun L _ _ =>
  ⟨by simp [encode, opcodeOf], violation_assemble _ _ _ _ _ (by simp [formOf, Form.fn]) (by simp) (by simp)⟩

end EncodesInForm

end Sys2Proof.Laws
end

