-- ==== Sys2Proof/Laws/Step.lean ====
section
/-! SUPPORT. What a step can do, said once: exec is the resumption of the accepted command from its first point, a command keeps
what its primitives keep, and the cases of a step. -/

namespace Sys2Proof.Machine

/-- Every meaning is the command's run from its first control point after acceptance (R36). -/
theorem exec_eq_resume (i : Instr) (s : State) : exec i s = .next (resume i (.wake 0) (accept (encode i) s)) := by
  cases i <;> rfl

/-- What the primitives of a command and the register writes of the setters keep, every command keeps. -/
theorem resume_kept {W : RegWrite → Prop} {P : State → Prop} (kept : Kept W P)
    (hwake : ∀ s, P s → ∀ w ∈ wakeWrites s.cfg.lit, W w) (i : Instr) (hown : ∀ s, P s → ∀ w ∈ ownWrites i s, W w)
    (hmult : ∀ s v, P s → P { s with trimMult := multValue s.cfg.lit v })
    (hzero : ∀ s v, P s → P { s with trimZero := zeroValue s.cfg.lit v })
    (hspr : ∀ s k imm, P s → P (s.setSprReg k (sprValue s.cfg.lit imm))) (p : Point) {s : State} (h : P s) : P (resume i p s) := by
  cases i with
  | init => exact registerCommand_kept (own := fun _ t => .on t) kept hwake (fun _ _ ht => ht) p h
  | servoWrite n imm => exact registerCommand_kept kept hwake (fun q t ht => bodyFrom_kept kept hown q ht) p h
  | servoStop n => exact registerCommand_kept kept hwake (fun q t ht => bodyFrom_kept kept hown q ht) p h
  | motorOn m dir imm => exact registerCommand_kept kept hwake (fun q t ht => bodyFrom_kept kept hown q ht) p h
  | motorOff m => exact registerCommand_kept kept hwake (fun q t ht => bodyFrom_kept kept hown q ht) p h
  | stepTurn k dir imm =>
    exact registerCommand_kept (own := fun q t => turnSteps k dir (stepCount t.cfg.lit imm) q t) kept hwake
      (fun q t ht => turnSteps_kept kept hown _ q ht) p h
  | stepAngle k dir imm =>
    exact registerCommand_kept (own := fun q t => turnSteps k dir (angleSteps k imm t) q t) kept hwake
      (fun q t ht => turnSteps_kept kept hown _ q ht) p h
  | setMult imm => exact setterCommand_kept kept hwake (fun t ht => hmult t _ ht) p h
  | setZero imm => exact setterCommand_kept kept hwake (fun t ht => hzero t _ ht) p h
  | setSpr k imm => exact setterCommand_kept kept hwake (fun t ht => hspr t k _ ht) p h
  | reducePulse imm => exact setterCommand_kept kept hwake (fun t ht => hmult t _ ht) p h
  | allOff => exact registerCommand_kept kept hwake (fun q t ht => bodyFrom_kept kept hown q ht) p h

/-- Everything a step can do when it answers a next state. -/
theorem step_cases {s t : State} (h : step s = .next t) :
    s.shared = false ∧
    ((s.seq = .idle ∧ s.host = [] ∧ t = s) ∨
     (∃ strap rest, s.seq = .idle ∧ s.host = .rst strap :: rest ∧ t = resetBlock strap { s with host := rest }) ∨
     (∃ w rest i, s.seq = .idle ∧ s.host = .cmd w :: rest ∧ decode s.cfg.lit w = .ok i ∧
        t = resume i (.wake 0) (accept (encode i) { s with host := rest })) ∨
     (∃ w rest e, s.seq = .idle ∧ s.host = .cmd w :: rest ∧ decode s.cfg.lit w = .error e ∧
        t = raise (.illegal w) (accept w { s with host := rest })) ∨
     (∃ w p, s.seq = .busy w p ∧ s.NoReset ∧ t = resumeWord w p s) ∨
     (∃ w p strap rest, s.seq = .busy w p ∧ s.host = .rst strap :: rest ∧ t = abandon strap { s with host := rest })) := by
  unfold step sequencerStep at h
  cases hsh : s.shared with
  | true => simp [hsh] at h
  | false =>
    refine ⟨rfl, ?_⟩
    simp only [hsh, Bool.false_eq_true, if_false] at h
    cases hseq : s.seq with
    | idle =>
      simp only [hseq, idleStep] at h
      cases hh : s.host with
      | nil => simp only [hh] at h; cases h; exact .inl ⟨rfl, rfl, rfl⟩
      | cons x rest =>
        cases x with
        | rst strap =>
          simp only [hh] at h; cases h
          exact .inr (.inl ⟨strap, rest, rfl, rfl, rfl⟩)
        | cmd w =>
          simp only [hh, acceptWord] at h
          cases hd : decode s.cfg.lit w with
          | ok i =>
            simp only [hd, exec_eq_resume] at h; cases h
            exact .inr (.inr (.inl ⟨w, rest, i, rfl, rfl, hd, rfl⟩))
          | error e =>
            simp only [hd] at h; cases h
            exact .inr (.inr (.inr (.inl ⟨w, rest, e, rfl, rfl, hd, rfl⟩)))
    | busy w p =>
      simp only [hseq, busyStep] at h
      cases hh : s.host with
      | nil =>
        simp only [hh] at h; cases h
        exact .inr (.inr (.inr (.inr (.inl ⟨w, p, rfl, by simp [State.NoReset, hh], rfl⟩))))
      | cons x rest =>
        cases x with
        | cmd v =>
          simp only [hh] at h; cases h
          exact .inr (.inr (.inr (.inr (.inl ⟨w, p, rfl, by simp [State.NoReset, hh], rfl⟩))))
        | rst strap =>
          simp only [hh] at h; cases h
          exact .inr (.inr (.inr (.inr (.inr ⟨w, p, strap, rest, rfl, rfl, rfl⟩))))

/-- Everything a reset does to a command in progress (R190): the block is reset, and at most one LOST event is emitted. -/
theorem abandon_cases (strap : Option DevAddr) (s : State) :
    (∃ w, s.outstanding = some w ∧ abandon strap s = resetBlock strap (s.answered w .lost)) ∨
    (s.outstanding = none ∧ ∃ tr dw, abandon strap s = resetBlock strap { s with transport := tr, dwells := dw }) := by
  unfold abandon
  cases ho : s.outstanding with
  | some w => exact .inl ⟨w, rfl, by cases s.currentWrite <;> rfl⟩
  | none =>
    cases s.currentWrite with
    | some w => exact .inr ⟨rfl, s.transport.drop 1, s.dwells, rfl⟩
    | none => exact .inr ⟨rfl, s.transport, s.dwells.drop 1, rfl⟩

end Sys2Proof.Machine
end

