-- ==== Sys2Proof/Tests/Slice0.lean ====
section
/-! SUPPORT. The model's own tests: the checks of WellFormed refuse ill-formed terms; words written out bit by bit from the
encodings of 30_encoding.md decode as they stand there; single steps give the values of 95_test_vectors.md; and for every
statement that has hypotheses, a concrete state and operands that meet them. -/

namespace Sys2Proof.Machine

/-! ### Well-formedness: every check refuses an ill-formed term (R72, R80) -/

theorem test_wf_refuses_servo_0_and_9 :
    (Instr.servoWrite 0 90).wf lit = false ∧ (Instr.servoWrite 9 90).wf lit = false ∧
      (Instr.servoStop 0).wf lit = false ∧ (Instr.servoStop 9).wf lit = false := by decide

theorem test_wf_refuses_motor_0_and_5 :
    (Instr.motorOn 0 .forward 1).wf lit = false ∧ (Instr.motorOn 5 .forward 1).wf lit = false ∧
      (Instr.motorOff 0).wf lit = false ∧ (Instr.motorOff 5).wf lit = false := by decide

theorem test_wf_refuses_stepper_0_and_3 :
    (Instr.stepTurn 0 .forward 1).wf lit = false ∧ (Instr.stepTurn 3 .forward 1).wf lit = false ∧
      (Instr.stepAngle 0 .forward 1).wf lit = false ∧ (Instr.stepAngle 3 .forward 1).wf lit = false ∧
      (Instr.setSpr 0 1).wf lit = false ∧ (Instr.setSpr 3 1).wf lit = false := by decide

/-! ### Decoding: OP CH D RSV IMM written out (R70 to R80; the words of 30_encoding.md section 5 and V1) -/

theorem test_decode_init : decode lit 0b0001_0000_0_0000000_0000000000000000 = .ok .init := by decide

theorem test_decode_servoWrite :
    decode lit 0b0010_0111_0_0000000_1111111111111011 = .ok (.servoWrite 8 (BitVec.ofInt 16 (-5))) := by decide

theorem test_decode_servoStop : decode lit 0b0011_0010_0_0000000_0000000000000000 = .ok (.servoStop 3) := by decide

theorem test_decode_motorOn :
    decode lit 0b0100_0001_1_0000000_0000000000110010 = .ok (.motorOn 2 .reverse 50) := by decide

theorem test_decode_motorOff : decode lit 0b0101_0011_0_0000000_0000000000000000 = .ok (.motorOff 4) := by decide

theorem test_decode_stepTurn :
    decode lit 0b0110_0001_1_0000000_1111111111111111 = .ok (.stepTurn 2 .reverse 65535) := by decide

theorem test_decode_stepAngle :
    decode lit 0b0111_0001_1_0000000_0000000001011010 = .ok (.stepAngle 2 .reverse 90) := by decide

theorem test_decode_setMult : decode lit 0b1000_0000_0_0000000_0000000100101100 = .ok (.setMult 300) := by decide

theorem test_decode_setZero :
    decode lit 0b1001_0000_0_0000000_1111111111111111 = .ok (.setZero (BitVec.ofInt 16 (-1))) := by decide

theorem test_decode_setSpr : decode lit 0b1010_0001_0_0000000_0000000000110000 = .ok (.setSpr 2 48) := by decide

theorem test_decode_reducePulse :
    decode lit 0b1011_0000_0_0000000_0000000000011001 = .ok (.reducePulse 25) := by decide

theorem test_decode_allOff : decode lit 0b1100_0000_0_0000000_0000000000000000 = .ok .allOff := by decide

/-- The illegal words of 30_encoding.md section 5 and V1. -/
theorem test_decode_illegal_words :
    ([0x00000000, 0x28000000, 0x44000064, 0x62000004, 0x10000001, 0x2080005A, 0x40010064, 0x40400064, 0x30000001,
      0x50800000, 0x81000071, 0xA0800030, 0xC0000001, 0xD0000000, 0xE0000000, 0xFFFFFFFF] : List Nat).all
        (fun w => (decodeTableWord 32 w).isNone) = true := by decide

/-- The encodings of 30_encoding.md section 5. -/
theorem test_encode_words :
    [encode (.servoWrite 1 90), encode (.motorOn 1 .forward 100), encode (.stepTurn 1 .forward 4),
      encode (.setSpr 2 48), encode (.reducePulse 25)] =
      [0x2000005A, 0x40000064, 0x60000004, 0xA1000030, 0xB0000019] := by decide

/-! ### Single steps against 95_test_vectors.md -/

/-- An initialised block at reset trim, with every write answered OK, strapped to 0x6C. -/
def bench : State := { State.reset with chipInit := true, cfg := { devAddr := .a6C } }

/-- The same block before its wake sequence. -/
def cold : State := { bench with chipInit := false }

/-- A write of the bench answered OK. -/
def w (reg val : Byte) : Event := .write 0x6C reg val .ok

/-- The six wake writes (V2). -/
def wakeEvents : List Event := [w 0xFE 0x85, w 0xFA 0, w 0xFB 0, w 0xFC 0, w 0xFD 0, w 0x00 0x01]

/-- STATUS and the trace after a step. -/
def seen (o : Host.Outcome State Fault Refusal) : Option (Word × List Event) :=
  match o with
  | .next t => some (t.status, t.trace)
  | .fault _ => none
  | .refused _ => none

/-- CFG0 and CFG1 after a step. -/
def config (o : Host.Outcome State Fault Refusal) : Option (Word × Word) :=
  match o with
  | .next t => some (t.cfg0, t.cfg1)
  | .fault _ => none
  | .refused _ => none

/-- V2: from reset, `INIT` emits the six wake writes and ends with STATUS 0x00000006. -/
theorem test_init_from_reset : seen (exec .init cold) = some (0x00000006, wakeEvents) := by decide

/-- V2: with CHIP_INIT = 0 and a NACK on write 6, FAIL_REG is 0x00 and CHIP_INIT stays 0. -/
theorem test_init_nack_on_mode1 :
    seen (exec .init { cold with transport := ⟨[.ok, .ok, .ok, .ok, .ok, .nack], .ok⟩ }) =
      some (0x00000008, [w 0xFE 0x85, w 0xFA 0, w 0xFB 0, w 0xFC 0, w 0xFD 0, .write 0x6C 0x00 0x01 .nack]) := by decide

/-- V3: at the greatest trim and 180 degrees pwm is 610, so lo = 98 and hi = 1 (the wrap of R112). -/
theorem test_servoWrite_greatest_pwm :
    seen (exec (.servoWrite 1 180) { bench with trimZero := 204 }) =
      some (0x00000006, [w 0x08 98, w 0x09 1]) := by decide

/-- V8: `SERVO_WRITE s2, 90` with a NACK on write 1. -/
theorem test_servoWrite_nack :
    seen (exec (.servoWrite 2 90) { bench with transport := ⟨[.nack], .ok⟩ }) =
      some (0x00000C0A, [.write 0x6C 0x0C 49 .nack]) := by decide

/-- E5: the first `SERVO_STOP s1` from reset. -/
theorem test_servoStop_from_reset :
    seen (exec (.servoStop 1) cold) = some (0x00000006, wakeEvents ++ [w 0x08 0, w 0x09 0]) := by decide

/-- V4: `MOTOR_ON m4, R, 50`. -/
theorem test_motorOn_reverse :
    seen (exec (.motorOn 4 .reverse 50) bench) =
      some (0x00000006, [w 0x44 208, w 0x45 7, w 0x40 0, w 0x41 0]) := by decide

/-- V8: `MOTOR_ON m1, R, 100` with a NACK on write 3. -/
theorem test_motorOn_nack :
    seen (exec (.motorOn 1 .reverse 100) { bench with transport := ⟨[.ok, .ok, .nack], .ok⟩ }) =
      some (0x0000280A, [w 0x2C 160, w 0x2D 15, .write 0x6C 0x28 0 .nack]) := by decide

/-- V4: `MOTOR_OFF m3`. -/
theorem test_motorOff :
    seen (exec (.motorOff 3) bench) = some (0x00000006, [w 0x38 0, w 0x39 0, w 0x3C 0, w 0x3D 0]) := by decide

/-- V6: `STEP_TURN t2, R, 3` visits phases 1, 4, 3. -/
theorem test_stepTurn_reverse :
    seen (exec (.stepTurn 2 .reverse 3) bench) =
      some (0x00000006,
        [w 0x38 160, w 0x39 15, w 0x3C 0, w 0x3D 0, .dwell 20, w 0x40 160, w 0x41 15, w 0x44 0, w 0x45 0, .dwell 20,
          w 0x3C 160, w 0x3D 15, w 0x38 0, w 0x39 0, .dwell 20]) := by decide

/-- P6: a NACK on the 7th write of a turn ends it with no dwell after the failed write. -/
theorem test_stepTurn_nack :
    seen (exec (.stepTurn 1 .forward 3) { bench with transport := ⟨List.replicate 6 .ok ++ [.nack], .ok⟩ }) =
      some (0x0000300A,
        [w 0x28 160, w 0x29 15, w 0x2C 0, w 0x2D 0, .dwell 20, w 0x34 160, w 0x35 15, .write 0x6C 0x30 0 .nack]) := by decide

/-- V5: an angle of −5 with SPR[1] = 200 is one step. -/
theorem test_stepAngle_clamps :
    seen (exec (.stepAngle 1 .forward (BitVec.ofInt 16 (-5))) bench) =
      some (0x00000006, [w 0x28 160, w 0x29 15, w 0x2C 0, w 0x2D 0, .dwell 20]) := by decide

/-- V5: rows of the angle table, and the values under every STEP_ROUND. -/
theorem test_angleToSteps_vectors :
    [angleToSteps lit .trunc 90 200, angleToSteps lit .trunc 181 200, angleToSteps lit .trunc 2 65535, angleToSteps lit .trunc 359 0,
      angleToSteps lit .trunc 360 0, angleToSteps lit .floor 2 0, angleToSteps lit .nearest 181 200, angleToSteps lit .nearest 359 0,
      angleToSteps lit .nearest 180 4, angleToSteps lit .ceil 180 4, angleToSteps lit .ceil 2 0] =
      [50, 100, 183, 1, 0, 0, 101, 0, 2, 3, 1] := by decide

/-- V7: SET_MULT 112 and 225. -/
theorem test_setMult :
    config (exec (.setMult 112) bench) = some (0x00006671, 0x00C800C8) ∧
      config (exec (.setMult 225) bench) = some (0x000066E1, 0x00C800C8) := by decide

/-- V7: SET_ZERO −1 and 227. -/
theorem test_setZero :
    config (exec (.setZero (BitVec.ofInt 16 (-1))) bench) = some (0x000066E2, 0x00C800C8) ∧
      config (exec (.setZero 227) bench) = some (0x0000CCE2, 0x00C800C8) := by decide

/-- V7: SET_SPR t2, 65535 leaves SPR[1]. -/
theorem test_setSpr : config (exec (.setSpr 2 65535) bench) = some (0x000066E2, 0xFFFF00C8) := by decide

/-- V7: REDUCE_PULSE 0 leaves 113; V8: a setter emits nothing and ends OK. -/
theorem test_reducePulse :
    config (exec (.reducePulse 0) bench) = some (0x00006671, 0x00C800C8) ∧
      seen (exec (.reducePulse 0) cold) = some (0x00000004, []) := by decide

/-- E7: ALL_OFF emits its 32 zero writes in order. -/
theorem test_allOff :
    seen (exec .allOff bench) = some (0x00000006,
      ([0x28, 0x29, 0x2C, 0x2D, 0x30, 0x31, 0x34, 0x35, 0x38, 0x39, 0x3C, 0x3D, 0x40, 0x41, 0x44, 0x45, 0x08, 0x09,
        0x0C, 0x0D, 0x10, 0x11, 0x14, 0x15, 0x18, 0x19, 0x1C, 0x1D, 0x20, 0x21, 0x24, 0x25] : List Byte).map
          (fun r => w r 0)) := by decide

/-- V8: ALL_OFF with a NACK on write 17. -/
theorem test_allOff_nack :
    seen (exec .allOff { bench with transport := ⟨List.replicate 16 .ok ++ [.nack], .ok⟩ }) =
      some (0x0000080A,
        ([0x28, 0x29, 0x2C, 0x2D, 0x30, 0x31, 0x34, 0x35, 0x38, 0x39, 0x3C, 0x3D, 0x40, 0x41, 0x44, 0x45] : List Byte).map
          (fun r => w r 0) ++ [.write 0x6C 0x08 0 .nack]) := by decide

/-- V1: an illegal word on the command channel leaves STATUS = 0x0000000C and emits nothing. -/
theorem test_illegal_word :
    seen (step { cold with host := [.cmd 0x28000000] }) = some (0x0000000C, []) := by decide

/-- V9: `STEP_TURN t1, F, 10` waiting for the answer to its 7th write, W(0x30, 0). -/
def heldTurn : State :=
  { bench with
    seq := .busy 0x6000000A (.body 2), phase := 1, stepI := 1, transport := ⟨[.unanswered], .ok⟩, host := [.rst none] }

/-- V9: `rst` there records W(0x30, 0, LOST), and STATUS reads 0. -/
theorem test_reset_in_flight : seen (step heldTurn) = some (0x00000000, [.write 0x6C 0x30 0 .lost]) := by decide

/-- R36, R52: the same turn without `rst` stays BUSY (STATUS with BUSY = 1, INIT = 1). -/
theorem test_held_turn_waits :
    seen (step { heldTurn with host := [.cmd 0x10000000] }) = some (0x00000003, []) := by decide

/-- The word the opcode table gives for INIT is what the next step runs. -/
theorem test_withFetchWord : seen (step (cold.withFetchWord 32 0x10000000)) = some (0x00000006, wakeEvents) := by decide

/-- 92 D27: with SPEED_SCALE 41 and PAIR_OFS 5, `MOTOR_ON m1, F, 100` sends 4100 = 16 × 256 + 4. -/
theorem test_substituted_literals :
    seen (exec (.motorOn 1 .forward 100)
      { bench with cfg := { devAddr := .a6C, lit := { lit with speedScale := 41, pairOfs := 5 } } }) =
      some (0x00000006, [w 0x28 4, w 0x29 16, w 0x2D 0, w 0x2E 0]) := by decide

/-- R58, P6: a NACKed write on an unknown register leaves it unknown; on a known one, either value. -/
theorem test_image_after_nack :
    extOfLog 0x6C 0x30 [.write 0x6C 0x30 0 .nack] = .any ∧
      extOfLog 0x6C 0x30 [.write 0x6C 0x30 0 .nack, .write 0x6C 0x30 160 .ok] = .among [0, 160] := by decide

/-! ### Witnesses: for each statement with hypotheses, a state and operands that meet them -/

theorem bench_answers (n : Nat) : bench.transport.Yields n .ok := fun k _ => by simp [bench, State.reset, Script.at]

theorem cold_answers (n : Nat) : cold.transport.Yields n .ok := fun k _ => by simp [cold, bench, State.reset, Script.at]

theorem bench_dwells (n : Nat) : bench.dwells.Yields n .elapses := fun k _ => by simp [bench, State.reset, Script.at]

/-- This hardware's parameters, which many statements have as a premise. -/
theorem bench_standard : bench.Standard ∧ cold.Standard := ⟨rfl, rfl⟩

theorem witness_StepRunsTheDecodedCommand :
    bench.shared = false ∧ bench.seq = .idle ∧
      ({ bench with host := [.cmd 0x10000000] } : State).host = .cmd 0x10000000 :: [] ∧
      decode bench.cfg.lit 0x10000000 = .ok .init := by decide

/-- A word with a bad channel, one with a bad opcode, and a word that CMD_WIDTH = 28 does not hold. -/
theorem witness_IllegalWordRaisesIllegalCommand :
    (∀ r ∈ rows, r.covers 0x28000000 = false) ∧ (∀ r ∈ rows, r.covers 0x00000000 = false) ∧
      (∀ r ∈ rows, r.covers 0xFFFFFFFF = false) ∧ decode bench.cfg.lit 0x28000000 = .error .channel ∧
      decode { lit with cmdWidth := 28 } 0x10000000 = .error .width := by decide

/-- This instance's address twice, two other instances with one address, and a configuration that is not refused. -/
theorem witness_SharedDeviceAddressIsRefused :
    ¬ [DevAddr.a6C, .a6D, .a6C].Nodup ∧ ¬ [DevAddr.a6C, .a6D, .a6D].Nodup ∧ [DevAddr.a6C, .a6D, .a6E].Nodup ∧
      ({ bench with cfg := { devAddr := .a6C, others := [.a6D, .a6D] } } : State).shared = true ∧
      ({ bench with cfg := { devAddr := .a6C, others := [.a6D, .a6E] } } : State).shared = false := by decide

theorem witness_LegalExactlyWhenARowMatches :
    (∃ r ∈ rows, r.covers 0x10000000 = true) ∧ ¬ ∃ r ∈ rows, r.covers 0x10000001 = true := by decide

/-- This hardware's channel counts, and the greatest that the CH field holds. -/
theorem witness_DecodeOfEncodeIsTheCommand :
    (lit.nServo ≤ 16 ∧ lit.nMotor ≤ 16 ∧ lit.nStepper ≤ 16 ∧ 32 ≤ lit.cmdWidth) ∧
      (Instr.servoWrite 1 0).WellFormed lit ∧ (Instr.servoStop 8).WellFormed lit ∧
      (Instr.motorOn 1 .reverse 65535).WellFormed lit ∧ (Instr.motorOff 4).WellFormed lit ∧
      (Instr.stepTurn 1 .forward 0).WellFormed lit ∧ (Instr.setSpr 2 65535).WellFormed lit ∧
      (Instr.servoStop 16).WellFormed { lit with nServo := 16 } := by decide

theorem witness_EncodeOfDecodeIsTheWord :
    decode lit 0x2700FFFB = .ok (.servoWrite 8 0xFFFB) ∧ decode lit 0x7080FF9C = .ok (.stepAngle 1 .reverse 0xFF9C) := by decide

theorem witness_InitRunsTheWakeSequence :
    (cold.chipInit = false ∧ cold.transport.Yields (wakeWrites cold.cfg.lit).length .ok) ∧ bench.chipInit = true :=
  ⟨⟨rfl, cold_answers _⟩, rfl⟩

/-- The first and the last wake write, in a register-writing command and in a setter that initialises. -/
theorem witness_WakeNackAbortsAndLeavesChipUninitialised :
    (wakePart cold = [] ++ ⟨0xFE, 0x85⟩ :: (wakePart cold).drop 1 ∧
      (⟨[.nack], .ok⟩ : Script WriteFate).at 0 = .nack) ∧
    (wakePart cold = (wakePart cold).take 5 ++ ⟨0x00, 0x01⟩ :: [] ∧
      (∀ k, k < 5 → (⟨List.replicate 5 .ok ++ [.nack], .ok⟩ : Script WriteFate).at k = .ok) ∧
      (⟨List.replicate 5 .ok ++ [.nack], .ok⟩ : Script WriteFate).at 5 = .nack) ∧
    writesRegisters (.servoStop 1) = true ∧
    ({ cold with cfg := { devAddr := .a6C, setterInit := true } } : State).cfg.setterInit = true := by decide

/-- A held write of the wake sequence, to which the transport now answers. -/
def heldWake : State := { cold with seq := .busy 0x10000000 (.wake 5) }

theorem heldWake_inv : heldWake.Inv := by
  refine ⟨lit_sound, by decide, by decide, by decide, fun w p h => ?_⟩
  obtain ⟨rfl, rfl⟩ := SeqPos.busy.inj (h : SeqPos.busy _ _ = SeqPos.busy _ _)
  exact ⟨.init, by decide, rfl, by decide, .inl rfl⟩

theorem witness_ChipInitIsSetOnlyByTheWakeSequence :
    heldWake.Inv ∧ heldWake.NoReset ∧ heldWake.chipInit = false ∧
      ∃ t, step heldWake = .next t ∧ t.chipInit = true :=
  ⟨heldWake_inv, by simp [State.NoReset, heldWake, cold, bench, State.reset], rfl, _, rfl, by decide⟩

theorem witness_NoWakeWriteOnceInitialised :
    (Instr.motorOff 1).WellFormed bench.cfg.lit ∧ bench.chipInit = true ∧ ∃ t, exec (.motorOff 1) bench = .next t :=
  ⟨by decide, rfl, _, rfl⟩

theorem witness_ServoWriteSendsTheEncodedAngle :
    (1 ≤ 8 ∧ 8 ≤ lit.nServo ∧ 1 ≤ 1) ∧ cold.transport.Yields ((wakePart cold).length + 2) .ok := ⟨by decide, cold_answers _⟩

theorem witness_ServoStopZeroesThePair :
    (1 ≤ 8 ∧ 8 ≤ lit.nServo ∧ 1 ≤ 1) ∧ bench.transport.Yields ((wakePart bench).length + 2) .ok := ⟨by decide, bench_answers _⟩

theorem witness_MotorOnDrivesOnePairAndZeroesTheOther :
    (1 ≤ 4 ∧ 4 ≤ lit.nMotor ∧ 1 ≤ 1) ∧ cold.transport.Yields ((wakePart cold).length + 4) .ok := ⟨by decide, cold_answers _⟩

theorem witness_MotorOffZeroesAllFour :
    (1 ≤ 4 ∧ 4 ≤ lit.nMotor ∧ 1 ≤ 1) ∧ bench.transport.Yields ((wakePart bench).length + 4) .ok := ⟨by decide, bench_answers _⟩

theorem witness_AllOffZeroesThirtyTwoRegisters : cold.transport.Yields ((wakePart cold).length + 32) .ok := cold_answers _

/-- No step, and the greatest count. -/
theorem witness_StepTurnRunsEveryStep :
    (1 ≤ 2 ∧ 2 ≤ lit.nStepper ∧ 1 ≤ 1) ∧ (65535 : Imm).toNat % 2 ^ lit.stepsWidth = 65535 ∧
      cold.transport.Yields ((wakePart cold).length + 4 * 0) .ok ∧
      bench.transport.Yields ((wakePart bench).length + 4 * 65535) .ok ∧ bench.dwells.Yields 65535 .elapses :=
  ⟨by decide, by decide, cold_answers _, bench_answers _, bench_dwells _⟩

theorem witness_StepAngleTurnsTheConvertedCount :
    let steps := (angleToSteps bench.cfg.lit bench.cfg.stepRound (min lit.angleMax (max lit.angleMin (90 : Imm).toInt)) bench.spr2.toNat).toNat
    (1 ≤ 2 ∧ 2 ≤ lit.nStepper ∧ 1 ≤ 1) ∧ bench.transport.Yields ((wakePart bench).length + 4 * steps) .ok ∧
      bench.dwells.Yields steps .elapses := ⟨by decide, bench_answers _, bench_dwells _⟩

/-- Both ends of every operand range of ServoBytes. -/
theorem witness_ServoBytesFormulaAndBounds :
    ((0 : Int) ≤ 0 ∧ (0 : Int) ≤ 180 ∧ (113 : Int) ≤ 113 ∧ (113 : Int) ≤ 226 ∧ (102 : Int) ≤ 102 ∧ (102 : Int) ≤ 204) ∧
      ((180 : Int) ≤ 180 ∧ (226 : Int) ≤ 226 ∧ (204 : Int) ≤ 204) := by decide

/-- One value on each side of every threshold of the wrap (V3). -/
theorem witness_ServoNineBitWrap :
    servoPwm 180 226 204 = 610 ∧ servoPwm 180 226 105 = 511 ∧ servoPwm 180 226 106 = 512 ∧
      servoPwm 136 226 204 = 511 ∧ servoPwm 137 226 204 = 513 := by decide

theorem witness_MotorDirectionMultiplexerTable :
    ((0 : Int) ≤ 0 ∧ (0 : Int) ≤ 100) ∧ ((0 : Int) ≤ 100 ∧ (100 : Int) ≤ 100) := by decide

/-- The state a meaning answers with. -/
def after (o : Host.Outcome State Fault Refusal) (s : State) : State :=
  match o with
  | .next t => t
  | .fault _ => s
  | .refused _ => s

/-- From an idle block, Forward and then Reverse, and Reverse and then Forward. -/
theorem witness_DirectionSwapMovesTheDrivenPair :
    ([(Dir.forward, Dir.reverse), (Dir.reverse, Dir.forward)] : List (Dir × Dir)).all (fun d =>
      let t := after (exec (.motorOn 4 d.1 50) bench) bench
      let u := after (exec (.motorOn 4 d.2 50) t) t
      decide (t.seq = .idle ∧ t.result = .ok ∧ d.2 ≠ d.1 ∧ u.seq = .idle ∧ u.result = .ok)) = true ∧
      ∀ d, ∃ t, exec (.motorOn 4 d 50) bench = .next t :=
  ⟨by decide, fun d => ⟨_, rfl⟩⟩

/-- A step at each end of the phase table. -/
theorem witness_StepWritesOfEachPhase :
    bench.phaseNumber = 1 ∧ ({ bench with phase := 3 } : State).phaseNumber = 4 := by decide

theorem witness_AngleToStepsTruncates :
    ((1 : Int) ≤ 1 ∧ (1 : Int) ≤ 360 ∧ (0 : Int) ≤ 0 ∧ (0 : Int) ≤ 65535) ∧
      ((1 : Int) ≤ 360 ∧ (360 : Int) ≤ 360 ∧ (1 : Int) ≤ 65535 ∧ (65535 : Int) ≤ 65535) := by decide

/-- Both ends of this hardware's range, an inexact quotient under each rounding, and a range (1 to 3) in which a half occurs:
1 degree past its lower end at two steps per revolution is half a step, and away from zero at spr = 0 too. -/
theorem witness_EveryRoundingRoundsAsNamed :
    (lit.angleMin < lit.angleMax ∧ lit.angleMin ≤ 1 ∧ (360 : Int) ≤ lit.angleMax) ∧
      [angleToSteps lit .trunc 180 4, angleToSteps lit .floor 180 4, angleToSteps lit .nearest 180 4,
        angleToSteps lit .ceil 180 4] = [2, 2, 2, 3] ∧
      [angleToSteps { lit with angleMax := 3 } .nearest 2 2, angleToSteps { lit with angleMax := 3 } .nearest 2 0] =
        [2, 0] := by decide

/-- A count of 0 (SPR[1] = 0, 360 degrees) and counts above 0 on both sides of it. -/
theorem witness_ZeroStepsEmitNothing :
    bench.cfg.stepRound = .trunc ∧ angleSteps 1 360 { bench with spr1 := 0 } = 0 ∧
      angleSteps 1 359 { bench with spr1 := 0 } = 1 ∧ angleSteps 1 360 { bench with spr1 := 1 } = 1 ∧
      (1 ≤ 1 ∧ 1 ≤ lit.nStepper) ∧ bench.transport.Yields (wakePart bench).length .ok :=
  ⟨by decide, by decide, by decide, by decide, by decide, bench_answers _⟩

theorem witness_LengthOfATurn :
    let t := after (exec (.stepTurn 1 .forward 2) bench) bench
    turns (.stepTurn 1 .forward 2) = true ∧ bench.chipInit = true ∧ exec (.stepTurn 1 .forward 2) bench = .next t ∧
      t.seq = .idle ∧ t.result = .ok :=
  ⟨rfl, rfl, rfl, by decide, by decide⟩

theorem witness_PhaseAndStepCounterAreUnobservable :
    ∃ t t', exec (.stepTurn 1 .reverse 1) bench = .next t ∧
      exec (.stepTurn 1 .reverse 1) { bench with phase := 2, stepI := 7 } = .next t' := ⟨_, _, rfl, rfl⟩

/-- The default parameters: SetMultStoresTheClampedValue, MultiplierClampLaws, SetZeroStoresTheClampedValue,
SetSprOverwritesOneRegister, ReducePulseOverwritesTheMultiplier, SettersUseTheParameters. -/
theorem witness_setters_by_default : bench.cfg.setterInit = false ∧ bench.cfg.pctClamp = true := by decide

theorem witness_ReducePulseWithoutPercentageClamp :
    let s : State := { bench with cfg := { devAddr := .a6D, pctClamp := false } }
    s.cfg.setterInit = false ∧ s.cfg.pctClamp = false := by decide

theorem witness_SettersInitialiseWhereTheParameterSaysSo :
    let s : State := { cold with cfg := { devAddr := .a6D, setterInit := true } }
    s.cfg.setterInit = true ∧ s.cfg.pctClamp = true ∧ s.transport.Yields (wakePart s).length .ok :=
  ⟨rfl, rfl, cold_answers _⟩

/-- The values at and beyond both bounds of the zero offset. -/
theorem witness_ZeroOffsetClampLaws :
    (0x66 : Imm).toInt ≤ 0x66 ∧ (BitVec.ofInt 16 (-32768) : Imm).toInt ≤ 0x66 ∧ 0xCC ≤ (0xCC : Imm).toInt ∧
      0xCC ≤ (32767 : Imm).toInt := by decide

/-- A stepper command other than STEP_ANGLE on the stepper, and STEP_ANGLE on the other stepper. -/
theorem witness_SprAffectsOnlyStepAngle :
    (Instr.stepTurn 1 .forward 1).WellFormed lit ∧ (∀ dir imm, Instr.stepTurn 1 .forward 1 ≠ .stepAngle 1 dir imm) ∧
      (∀ dir imm, Instr.stepAngle 2 .forward 1 ≠ .stepAngle 1 dir imm) ∧
      (∃ t, exec (.stepTurn 1 .forward 1) bench = .next t) ∧ ∃ t, exec (.setSpr 1 5) bench = .next t :=
  ⟨by decide, by simp, by simp, ⟨_, rfl⟩, _, rfl⟩

theorem witness_ReducePulseAlwaysYields113 :
    (∃ t, exec (.reducePulse 50) bench = .next t) ∧ ((0 : Int) ≤ 0 ∧ (0 : Int) ≤ 50) ∧
      ((0 : Int) ≤ 50 ∧ (50 : Int) ≤ 50) := ⟨⟨_, rfl⟩, by decide, by decide⟩

/-- A MOTOR_ON that ends with RESULT TRANSPORT at its third write. -/
theorem witness_AbortIsPrecise :
    let s : State := { bench with transport := ⟨[.ok, .ok, .nack], .ok⟩ }
    let t := after (exec (.motorOn 1 .forward 100) s) s
    exec (.motorOn 1 .forward 100) s = .next t ∧
      (∃ u, exec (.motorOn 1 .forward 100) { s with transport := ⟨[], .ok⟩ } = .next u) ∧
      t.seq = .idle ∧ t.result = .transport :=
  ⟨rfl, ⟨_, rfl⟩, by decide, by decide⟩

/-- MOTOR_ON's third own write, with and without the wake sequence before it. -/
theorem witness_OwnWriteNackKeepsEverythingElse :
    let i : Instr := .motorOn 1 .forward 100
    let s : State := { bench with transport := ⟨[.ok, .ok, .nack], .ok⟩ }
    let c : State := { cold with transport := ⟨List.replicate 8 .ok ++ [.nack], .ok⟩ }
    (writesRegisters i = true ∧ turns i = false) ∧
      ownWrites i s = [⟨0x28, 160⟩, ⟨0x29, 15⟩] ++ ⟨0x2C, 0⟩ :: [⟨0x2D, 0⟩] ∧
      (∀ k, k < (wakePart s).length + 2 → s.transport.at k = .ok) ∧ s.transport.at ((wakePart s).length + 2) = .nack ∧
      (∀ k, k < (wakePart c).length + 2 → c.transport.at k = .ok) ∧
      c.transport.at ((wakePart c).length + 2) = .nack := by decide

/-- The third write of the second step of a turn (P6). -/
theorem witness_TurnNackKeepsEverythingElse :
    let s : State := { bench with transport := ⟨List.replicate 6 .ok ++ [.nack], .ok⟩ }
    1 < stepTotal (.stepTurn 1 .forward 3) s ∧
      stepWritesAt s.cfg.lit 1 (turnPhase .forward 1) = [⟨0x34, 160⟩, ⟨0x35, 15⟩] ++ ⟨0x30, 0⟩ :: [⟨0x31, 0⟩] ∧
      (∀ k, k < (wakePart s).length + 4 * 1 + 2 → s.transport.at k = .ok) ∧
      s.transport.at ((wakePart s).length + 4 * 1 + 2) = .nack ∧ ∀ k, k < 1 → s.dwells.at k = .elapses := by decide

/-- An abort in the wake sequence and one after it. -/
theorem witness_AbortKeepsEveryRegister :
    let i : Instr := .servoWrite 1 90
    let early := after (exec i { cold with transport := ⟨[.ok, .nack], .ok⟩ }) cold
    let late := after (exec i { cold with transport := ⟨List.replicate 6 .ok ++ [.nack], .ok⟩ }) cold
    (early.seq = .idle ∧ early.result = .transport ∧ early.chipInit = false) ∧
      (late.seq = .idle ∧ late.result = .transport ∧ late.chipInit = true) ∧ i.WellFormed cold.cfg.lit := by decide

theorem witness_FailRegReportsTheNackedWrite :
    let t := after (exec (.motorOff 1) bench) bench
    (exec (.motorOff 1) bench = .next t ∧ t.seq = .idle) ∧
      (decode bench.cfg.lit 0x28000000 = .error .channel ∧ ∃ u, acceptWord 0x28000000 bench = .next u) :=
  ⟨⟨rfl, by decide⟩, by decide, _, rfl⟩

theorem witness_AnsweredCommandsEnd :
    (∀ k, bench.transport.at k = .ok ∨ bench.transport.at k = .nack) ∧ ∀ k, bench.dwells.at k = .elapses :=
  ⟨fun k => .inl (bench_answers (k + 1) k (by omega)), fun k => bench_dwells (k + 1) k (by omega)⟩

/-- TraceOnlyGrows, EveryWriteIsInTheRegisterMap and ParametersAreConstantBetweenResets: an IDLE block, a reset in flight, a
command. -/
theorem witness_steps_answer_a_next_state :
    (∃ t, step bench = .next t) ∧ (∃ t, step heldTurn = .next t) ∧
      ∃ t, step { cold with host := [.cmd 0x2000005A] } = .next t := ⟨⟨_, rfl⟩, ⟨_, rfl⟩, _, rfl⟩

/-- A register of another channel, a wake register once initialised, and a wake register under a setter. -/
theorem witness_CommandsLeaveOtherRegisterImages :
    (0x30 : Byte) ∉ ownRegisters (.motorOn 1 .forward 50) ∧ (0x30 : Byte) ∉ wakeRegisters ∧
      ((0xFE : Byte) ∈ wakeRegisters ∧ bench.chipInit = true) ∧
      (writesRegisters (.setMult 5) = false ∧ cold.cfg.setterInit = false) := by decide

/-- Held in the wake sequence (an unanswered write), in a turn (a write not yet issued) and in a dwell. -/
theorem witness_HeldCommandWaits :
    (PointOk .init (.wake 5) heldWake ∧ HeldBy (.wake 5) { heldWake with transport := ⟨[], .unanswered⟩ }) ∧
      (decode heldTurn.cfg.lit 0x6000000A = .ok (.stepTurn 1 .forward 10) ∧ PointOk (.stepTurn 1 .forward 10) (.body 2) heldTurn ∧
        HeldBy (.body 2) { heldTurn with transport := ⟨[.unissued], .ok⟩ }) ∧
      (PointOk (.stepTurn 1 .forward 10) .dwell heldTurn ∧ HeldBy .dwell { heldTurn with dwells := ⟨[.holds], .elapses⟩ }) ∧
      bench.NoReset :=
  ⟨⟨⟨rfl, by decide, .inl rfl⟩, .inl rfl⟩, ⟨by decide, ⟨rfl, by decide, by decide⟩, .inr rfl⟩,
    ⟨⟨rfl, rfl, by decide⟩, rfl⟩, by simp [State.NoReset, bench, State.reset]⟩

theorem witness_NoCommandIsAcceptedWhileBusy :
    heldTurn.seq = .busy 0x6000000A (.body 2) ∧
      ∃ t, step { heldTurn with host := [.cmd 0x10000000] } = .next t := ⟨rfl, _, rfl⟩

/-- A turn held at its seventh write by a transport that does not answer, which goes on with an answer, and a BUSY block that is
still held after its step. -/
theorem witness_HeldCommandGoesOnWhereItStood :
    let s : State := { bench with transport := ⟨List.replicate 6 .ok, .unanswered⟩ }
    let t := after (exec (.stepTurn 1 .forward 3) s) s
    (s.cfg.lit.angleMin < s.cfg.lit.angleMax ∧ exec (.stepTurn 1 .forward 3) s = .next t ∧
      t.seq = .busy 0x60000003 (.body 2) ∧ t.busy = true) ∧
    (t.shared = false ∧ decode t.cfg.lit 0x60000003 = .ok (.stepTurn 1 .forward 3) ∧ t.NoReset) ∧
    ∃ u, step t = .next u ∧ u.busy = true :=
  ⟨⟨by decide, rfl, by decide, by decide⟩, ⟨by decide, by decide, fun _ _ h => nomatch (show ([] : List HostInput) = _ :: _ from h)⟩, _, rfl, by decide⟩

/-- A reset of a turn at a write (log entry 20 where the answer is at hand), before a write is presented (log entry 11), and
inside a dwell (log entry 9). -/
theorem witness_ResetAbandonsTheCommand :
    heldTurn.shared = false ∧ heldTurn.host = .rst none :: [] ∧
      heldTurn.outstanding = some ⟨0x30, 0⟩ ∧
      ({ heldTurn with transport := ⟨[.ok], .ok⟩ } : State).outstanding = some ⟨0x30, 0⟩ ∧
      ({ heldTurn with transport := ⟨[.unissued], .ok⟩ } : State).outstanding = none ∧
      ({ heldTurn with seq := .busy 0x6000000A .dwell } : State).outstanding = none ∧
      seen (step { heldTurn with seq := .busy 0x6000000A .dwell }) = some (0x00000000, []) := by decide

theorem witness_EveryStepKeepsTheInvariant : heldWake.Inv ∧ ∃ t, step heldWake = .next t := ⟨heldWake_inv, _, rfl⟩

end Sys2Proof.Machine
end

/-! The trace only grows (R7, R60): "the trace so far begins the trace" is kept by every primitive, so by every command, by a
reset, and by every step. -/

namespace Sys2Proof.Machine

/-- The trace of `s` begins with the events of `l` (newest first, as in `State.log`). -/
def State.TraceFrom (l : List Event) (s : State) : Prop := l <:+ s.log

theorem traceFrom_of_log_eq {l : List Event} {s t : State} (hlog : t.log = s.log) (h : s.TraceFrom l) : t.TraceFrom l := by
  rwa [State.TraceFrom, hlog]

/-- A primitive emits at most one event, in front of the events before it. -/
theorem traceFrom_of_log_eq_cons {l : List Event} {s t : State} {e : Event} (hlog : t.log = e :: s.log) (h : s.TraceFrom l) :
    t.TraceFrom l := by
  rw [State.TraceFrom, hlog]
  exact h.trans (List.suffix_cons e s.log)

/-- Whatever a command writes, its primitives remove no event. -/
theorem traceFrom_kept (l : List Event) : Kept (fun _ => True) (State.TraceFrom l) where
  answered _ _ _ _ _ h := traceFrom_of_log_eq_cons (answered_log ..) h
  raise _ _ h := traceFrom_of_log_eq (raise_log ..) h
  complete _ h := traceFrom_of_log_eq (complete_log _) h
  hold _ _ h := traceFrom_of_log_eq (holdAt_log ..) h
  dwelt _ h := traceFrom_of_log_eq_cons (dwelt_log _) h
  ready _ h := traceFrom_of_log_eq (markReady_log _) h
  start _ h := traceFrom_of_log_eq (turnStart_log _) h
  advance _ _ h := traceFrom_of_log_eq (turnAdvance_log ..) h

/-- A command, from any control point, removes no event. -/
theorem resume_traceFrom {l : List Event} (i : Instr) (p : Point) {s : State} (h : s.TraceFrom l) :
    (resume i p s).TraceFrom l :=
  resume_kept (traceFrom_kept l) (fun _ _ _ _ => trivial) i (fun _ _ _ _ => trivial)
    (fun _ _ ht => ht) (fun _ _ ht => ht) (fun _ _ _ ht => traceFrom_of_log_eq (setSprReg_log ..) ht) p h

theorem resumeWord_traceFrom {l : List Event} (w : Word) (p : Point) {s : State} (h : s.TraceFrom l) :
    (resumeWord w p s).TraceFrom l := by
  unfold resumeWord
  split
  · exact resume_traceFrom _ p h
  · exact traceFrom_of_log_eq (raise_log ..) h

/-- A reset in flight removes no event: it emits the LOST record of an outstanding write, or nothing (R190). -/
theorem abandon_traceFrom {l : List Event} (strap : Option DevAddr) {s : State} (h : s.TraceFrom l) :
    (abandon strap s).TraceFrom l := by
  obtain ⟨w, -, ht⟩ | ⟨-, tr, dw, ht⟩ := abandon_cases strap s
  · rw [ht]
    exact traceFrom_of_log_eq_cons ((resetBlock_log ..).trans (answered_log ..)) h
  · rw [ht]
    exact traceFrom_of_log_eq (resetBlock_log ..) h

theorem step_traceFrom {l : List Event} {s t : State} (hs : step s = .next t) (h : s.TraceFrom l) : t.TraceFrom l := by
  obtain ⟨-, ⟨-, -, rfl⟩ | ⟨strap, rest, -, -, rfl⟩ | ⟨w, rest, i, -, -, -, rfl⟩ | ⟨w, rest, e, -, -, -, rfl⟩ |
    ⟨w, p, -, -, rfl⟩ | ⟨w, p, strap, rest, -, -, rfl⟩⟩ := step_cases hs
  · exact h
  · exact traceFrom_of_log_eq (resetBlock_log ..) h
  · exact resume_traceFrom i _ (traceFrom_of_log_eq (accept_log ..) h)
  · exact traceFrom_of_log_eq ((raise_log ..).trans (accept_log ..)) h
  · exact resumeWord_traceFrom w p h
  · exact abandon_traceFrom strap h

/-- Settles O46: the trace before the step is kept by the step, whichever of its cases it is. -/
theorem traceOnlyGrows : Obligations.TraceOnlyGrows := by
  intro s t hs
  exact step_traceFrom hs (List.suffix_refl s.log)

end Sys2Proof.Machine

/-! The parameters of R5 and their defaults. -/

namespace Sys2Proof.Machine

/-- Every strap setting is one of R5's four addresses. -/
theorem devAddr_byte_cases (d : DevAddr) : d.byte = 0x6C ∨ d.byte = 0x6D ∨ d.byte = 0x6E ∨ d.byte = 0x6F := by
  cases d with
  | a6C => exact .inl rfl
  | a6D => exact .inr (.inl rfl)
  | a6E => exact .inr (.inr (.inl rfl))
  | a6F => exact .inr (.inr (.inr rfl))

/-- Settles O56: the named literals default to `lit`, whose fields are R5's values. -/
theorem parametersHaveTheStatedDefaults : Obligations.ParametersHaveTheStatedDefaults := by
  intro d c
  have hlit : c.lit = lit := rfl
  rw [hlit]
  exact ⟨rfl, rfl, by decide, by decide, by decide, by decide, by decide, by decide, by decide, by decide, by decide,
    devAddr_byte_cases d⟩

end Sys2Proof.Machine

/-! The uniform shape of a command: EnsureReady where it runs, then the command's own statements, then its end. Proofs about
every command go through `resume_eq` and do not split on the twelve commands again. -/

namespace Sys2Proof.Machine

/-- What a command does to the configuration registers once its writes are over: a setter writes its register (R150, R152,
R154, R156), the others nothing. -/
def effect (i : Instr) (s : State) : State :=
  match i with
  | .setMult imm => { s with trimMult := multValue s.cfg.lit (sext16 imm) }
  | .setZero imm => { s with trimZero := zeroValue s.cfg.lit (sext16 imm) }
  | .setSpr k imm => s.setSprReg k (sprValue s.cfg.lit imm)
  | .reducePulse imm => { s with trimMult := reducedMult s.cfg.lit s.cfg.pctClamp imm }
  | .init | .servoWrite _ _ | .servoStop _ | .motorOn _ _ _ | .motorOff _ => s
  | .stepTurn _ _ _ | .stepAngle _ _ _ | .allOff => s

@[simp] theorem effect_seq (i : Instr) (s : State) : (effect i s).seq = s.seq := by
  cases i with
  | setSpr k imm => exact setSprReg_seq ..
  | _ => rfl

@[simp] theorem effect_chipInit (i : Instr) (s : State) : (effect i s).chipInit = s.chipInit := by
  cases i with
  | setSpr k imm => exact setSprReg_chipInit ..
  | _ => rfl

@[simp] theorem effect_log (i : Instr) (s : State) : (effect i s).log = s.log := by
  cases i with
  | setSpr k imm => exact setSprReg_log ..
  | _ => rfl

@[simp] theorem effect_host (i : Instr) (s : State) : (effect i s).host = s.host := by
  cases i with
  | setSpr k imm => exact setSprReg_host ..
  | _ => rfl

@[simp] theorem effect_cfg (i : Instr) (s : State) : (effect i s).cfg = s.cfg := by
  cases i with
  | setSpr k imm => exact setSprReg_cfg ..
  | _ => rfl

/-- A setter's register write commutes with every update that leaves the parameters and the configuration registers alone. -/
theorem effect_comm {g : State → State} (hcfg : ∀ s, (g s).cfg = s.cfg)
    (hmult : ∀ s v, g { s with trimMult := v } = { g s with trimMult := v })
    (hzero : ∀ s v, g { s with trimZero := v } = { g s with trimZero := v })
    (hspr1 : ∀ s v, g { s with spr1 := v } = { g s with spr1 := v })
    (hspr2 : ∀ s v, g { s with spr2 := v } = { g s with spr2 := v }) (i : Instr) (s : State) :
    effect i (g s) = g (effect i s) := by
  cases i with
  | setMult imm => exact (hmult s _).symm.trans (by rw [hcfg]; rfl)
  | setZero imm => exact (hzero s _).symm.trans (by rw [hcfg]; rfl)
  | reducePulse imm => exact (hmult s _).symm.trans (by rw [hcfg]; rfl)
  | setSpr k imm =>
    have hset (v : BitVec 16) : (g s).setSprReg k v = g (s.setSprReg k v) := by
      unfold State.setSprReg
      split
      · exact (hspr1 s v).symm
      · exact (hspr2 s v).symm
    exact (hset _).trans (by rw [hcfg]; rfl)
  | _ => rfl

/-- The command runs EnsureReady under this state's parameters (R103; 93 I5). -/
def wakes (i : Instr) (s : State) : Bool := writesRegisters i || s.cfg.setterInit

/-- The stepper and the direction of a turn. -/
def turnOf (i : Instr) : Option (Nat × Dir) :=
  match i with
  | .stepTurn k dir _ | .stepAngle k dir _ => some (k, dir)
  | .init | .servoWrite _ _ | .servoStop _ | .motorOn _ _ _ | .motorOff _ => none
  | .setMult _ | .setZero _ | .setSpr _ _ | .reducePulse _ | .allOff => none

/-- A turn changes no configuration register (R137). -/
theorem effect_turn {i : Instr} {kd : Nat × Dir} (h : turnOf i = some kd) (s : State) : effect i s = s := by
  cases i with
  | stepTurn k dir imm => rfl
  | stepAngle k dir imm => rfl
  | _ => cases h

/-- A command's own statements from control point `p` on, after EnsureReady. -/
def ownFlow (i : Instr) (p : Point) (s : State) : Flow :=
  match turnOf i with
  | some (k, dir) => turnSteps k dir (stepTotal i s) p s
  | none => (bodyFrom (ownWrites i) p s).andThen fun t => .on (effect i t)

/-- The flow of a whole command from control point `p` on. -/
def cmdFlow (i : Instr) (p : Point) (s : State) : Flow :=
  (if wakes i s then ensureReady p s else .on s).andThen (ownFlow i p)

theorem andThen_on_right (f : Flow) : (f.andThen fun t => .on t) = f := by
  cases f <;> rfl

theorem andThen_assoc (f : Flow) (g h : State → Flow) : (f.andThen g).andThen h = f.andThen fun t => (g t).andThen h := by
  cases f <;> rfl

@[simp] theorem bodyFrom_nil (p : Point) (s : State) : bodyFrom (fun _ => []) p s = .on s := by
  simp [bodyFrom, memWrites]

theorem ownFlow_list {i : Instr} (h : turnOf i = none) (p : Point) (s : State) :
    ownFlow i p s = (bodyFrom (ownWrites i) p s).andThen fun t => .on (effect i t) := by
  rw [ownFlow, h]

theorem ownFlow_turn {i : Instr} {k : Nat} {dir : Dir} (h : turnOf i = some (k, dir)) (p : Point) (s : State) :
    ownFlow i p s = turnSteps k dir (stepTotal i s) p s := by
  rw [ownFlow, h]

/-- Every command has the one shape. -/
theorem resume_eq (i : Instr) (p : Point) (s : State) : resume i p s = (cmdFlow i p s).finish := by
  have ends_on (list : State → List RegWrite) :
      ((ensureReady p s).andThen (bodyFrom list p)).finish =
        ((ensureReady p s).andThen fun t => (bodyFrom list p t).andThen fun u => .on u).finish := by
    simp only [andThen_on_right]
  have no_list (f : Flow) (k : State → Flow) :
      (f.andThen k).finish = (f.andThen fun t => (bodyFrom (fun _ => []) p t).andThen k).finish := by
    simp only [bodyFrom_nil, andThen_on]
  cases i with
  | init => exact no_list _ _
  | servoWrite n imm => exact ends_on _
  | servoStop n => exact ends_on _
  | motorOn m dir imm => exact ends_on _
  | motorOff m => exact ends_on _
  | allOff => exact ends_on _
  | stepTurn k dir imm => rfl
  | stepAngle k dir imm => rfl
  | setMult imm => exact no_list _ _
  | setZero imm => exact no_list _ _
  | setSpr k imm => exact no_list _ _
  | reducePulse imm => exact no_list _ _

end Sys2Proof.Machine

/-! How a command ends (R174, R176, R52), said once: it completes, it is aborted at a NACKed write, or it is held; up to
there it has changed nothing that the host can see but CHIP_INIT. -/

namespace Sys2Proof.Machine

/-- What the statements of a command leave as it was until the command ends: SEQ's command, the outcome, the configuration
registers, the host's inputs and the parameters. -/
structure Underway (s u : State) : Prop where
  seq : u.seq = s.seq
  result : u.result = s.result
  failReg : u.failReg = s.failReg
  trimMult : u.trimMult = s.trimMult
  trimZero : u.trimZero = s.trimZero
  spr1 : u.spr1 = s.spr1
  spr2 : u.spr2 = s.spr2
  host : u.host = s.host
  cfg : u.cfg = s.cfg

theorem Underway.refl (s : State) : Underway s s := ⟨rfl, rfl, rfl, rfl, rfl, rfl, rfl, rfl, rfl⟩

theorem Underway.trans {s u v : State} (h : Underway s u) (h' : Underway u v) : Underway s v where
  seq := h'.seq.trans h.seq
  result := h'.result.trans h.result
  failReg := h'.failReg.trans h.failReg
  trimMult := h'.trimMult.trans h.trimMult
  trimZero := h'.trimZero.trans h.trimZero
  spr1 := h'.spr1.trans h.spr1
  spr2 := h'.spr2.trans h.spr2
  host := h'.host.trans h.host
  cfg := h'.cfg.trans h.cfg

theorem underway_wrote (ws : List RegWrite) (s : State) : Underway s (s.wrote ws) :=
  ⟨rfl, rfl, rfl, rfl, rfl, rfl, rfl, rfl, rfl⟩

theorem underway_dwelt (s : State) : Underway s s.dwelt := ⟨rfl, rfl, rfl, rfl, rfl, rfl, rfl, rfl, rfl⟩

theorem underway_markReady (s : State) : Underway s s.markReady := ⟨rfl, rfl, rfl, rfl, rfl, rfl, rfl, rfl, rfl⟩

theorem underway_turnStart (s : State) : Underway s (turnStart s) := ⟨rfl, rfl, rfl, rfl, rfl, rfl, rfl, rfl, rfl⟩

theorem underway_turnAdvance (d : Dir) (s : State) : Underway s (turnAdvance d s) :=
  ⟨rfl, rfl, rfl, rfl, rfl, rfl, rfl, rfl, rfl⟩

/-- The three ways in which a stretch of a command can end, from `s`: it goes on, it is aborted at a NACKed write, or it is
held. -/
inductive Stretch (s : State) : Flow → Prop where
  | on {u : State} (h : Underway s u) : Stretch s (.on u)
  | nacked {u : State} (w : RegWrite) (h : Underway s u) :
      Stretch s (.off (raise (.transport w.reg) (u.answered w .nack)))
  | held {u : State} (p : Point) (h : Underway s u) : Stretch s (.off (u.holdAt p))

theorem Stretch.of_underway {s u : State} {f : Flow} (h : Underway s u) (hf : Stretch u f) : Stretch s f := by
  cases hf with
  | on h' => exact .on (h.trans h')
  | nacked w h' => exact .nacked w (h.trans h')
  | held p h' => exact .held p (h.trans h')

theorem Stretch.andThen {s : State} {f : Flow} {k : State → Flow} (hf : Stretch s f) (hk : ∀ u, Stretch u (k u)) :
    Stretch s (f.andThen k) := by
  cases hf with
  | on h => exact (hk _).of_underway h
  | nacked w h => exact .nacked w h
  | held p h => exact .held p h

theorem memWrites_stretch (pt : Nat → Point) (k : Nat) (ws : List RegWrite) (s : State) : Stretch s (memWrites pt k ws s) := by
  obtain ⟨-, h⟩ | ⟨vs, w, us, -, -, ⟨-, h⟩ | ⟨-, h⟩⟩ := memWrites_cases pt ws k s
  · exact h ▸ .on (underway_wrote ws s)
  · exact h ▸ .nacked w (underway_wrote vs s)
  · exact h ▸ .held _ (underway_wrote vs s)

theorem ensureReady_stretch (p : Point) (s : State) : Stretch s (ensureReady p s) := by
  cases p with
  | wake k =>
    cases hc : s.chipInit with
    | true => exact ensureReady_ready _ hc ▸ .on (.refl s)
    | false =>
      rw [ensureReady_wake k hc]
      exact (memWrites_stretch _ _ _ s).andThen fun u => .on (underway_markReady u)
  | body k => exact .on (.refl s)
  | dwell => exact .on (.refl s)

theorem dwell_stretch (s : State) : Stretch s (dwell s) := by
  cases hd : s.dwells.head with
  | elapses => exact dwell_elapses hd ▸ .on (underway_dwelt s)
  | holds => exact dwell_holds hd ▸ .held _ (.refl s)

/-- One iteration of a turn and the rest of it (R133). -/
theorem turnLoop_succ (k : Nat) (dir : Dir) (n : Nat) (p : Point) (s : State) :
    turnLoop k dir (n + 1) p s = ((bodyFrom (stepWriteList k) p s).andThen dwell).andThen fun t =>
      turnLoop k dir n (.body 0) (turnAdvance dir t) := by
  rw [turnLoop]
  split <;> next h => rw [h]; rfl

theorem turnLoop_stretch (k : Nat) (dir : Dir) (n : Nat) : ∀ (p : Point) (s : State), Stretch s (turnLoop k dir n p s) := by
  induction n with
  | zero => exact fun p s => .on (.refl s)
  | succ n ih =>
    intro p s
    rw [turnLoop_succ]
    exact ((memWrites_stretch _ _ _ s).andThen dwell_stretch).andThen fun u =>
      (ih _ _).of_underway (underway_turnAdvance dir u)

theorem turnSteps_stretch (k : Nat) (dir : Dir) (steps : Nat) (p : Point) (s : State) :
    Stretch s (turnSteps k dir steps p s) := by
  cases p with
  | wake j => exact (turnLoop_stretch k dir _ _ _).of_underway (underway_turnStart s)
  | body j => exact turnLoop_stretch k dir _ _ s
  | dwell => exact turnLoop_stretch k dir _ _ s

/-- Everything a command can do, from any control point: it completes, it is aborted at a NACKed write, or it is held. -/
theorem resume_ends (i : Instr) (p : Point) (s : State) :
    ∃ u, Underway s u ∧ (resume i p s = complete (effect i u) ∨
      (∃ w : RegWrite, resume i p s = raise (.transport w.reg) (u.answered w .nack)) ∨ ∃ q, resume i p s = u.holdAt q) := by
  have of_stretch {f : Flow} {k : State → State} (h : Stretch s f) :
      ∃ u, Underway s u ∧ ((f.andThen fun t => .on (k t)).finish = complete (k u) ∨
        (∃ w : RegWrite, (f.andThen fun t => .on (k t)).finish = raise (.transport w.reg) (u.answered w .nack)) ∨
        ∃ q, (f.andThen fun t => .on (k t)).finish = u.holdAt q) := by
    cases h with
    | on h => exact ⟨_, h, .inl rfl⟩
    | nacked w h => exact ⟨_, h, .inr (.inl ⟨w, rfl⟩)⟩
    | held q h => exact ⟨_, h, .inr (.inr ⟨q, rfl⟩)⟩
  have wake : Stretch s (if wakes i s then ensureReady p s else .on s) := by
    split
    · exact ensureReady_stretch p s
    · exact .on (.refl s)
  rw [resume_eq, cmdFlow]
  cases h : turnOf i with
  | none =>
    simp only [funext (ownFlow_list h p), ← andThen_assoc]
    exact of_stretch (wake.andThen fun u => memWrites_stretch _ _ _ u)
  | some kd =>
    have turn : Stretch s ((if wakes i s then ensureReady p s else .on s).andThen (ownFlow i p)) :=
      wake.andThen fun u => ownFlow_turn h p u ▸ turnSteps_stretch _ _ _ p u
    simpa only [effect_turn h, andThen_on_right] using of_stretch (k := effect i) turn

/-- No command changes a parameter (R38). -/
theorem resume_cfg (i : Instr) (p : Point) (s : State) : (resume i p s).cfg = s.cfg := by
  obtain ⟨u, hu, h | ⟨w, h⟩ | ⟨q, h⟩⟩ := resume_ends i p s
  · rw [h, complete_cfg, effect_cfg, hu.cfg]
  · rw [h, raise_cfg, answered_cfg, hu.cfg]
  · rw [h, holdAt_cfg, hu.cfg]

/-- No command takes anything from the host but its word (R36). -/
theorem resume_host (i : Instr) (p : Point) (s : State) : (resume i p s).host = s.host := by
  obtain ⟨u, hu, h | ⟨w, h⟩ | ⟨q, h⟩⟩ := resume_ends i p s
  · rw [h, complete_host, effect_host, hu.host]
  · rw [h, raise_host, answered_host, hu.host]
  · rw [h, holdAt_host, hu.host]

theorem busy_iff_ne_idle (s : State) : s.busy = true ↔ s.seq ≠ .idle := by
  unfold State.busy
  split <;> simp_all

theorem busy_iff (s : State) : s.busy = true ↔ ∃ w p, s.seq = .busy w p := by
  rw [busy_iff_ne_idle]
  cases s.seq <;> simp

/-- What a command that is held has kept (R32). -/
theorem resume_busy {i : Instr} {p : Point} {s : State} (h : (resume i p s).busy = true) :
    ∃ u q, Underway s u ∧ resume i p s = u.holdAt q := by
  obtain ⟨u, hu, he | ⟨w, he⟩ | ⟨q, he⟩⟩ := resume_ends i p s
  · simp [he, State.busy] at h
  · simp [he, State.busy] at h
  · exact ⟨u, q, hu, he⟩

/-- While a command is held, everything that its statements leave alone is as it was (R32, R30). -/
theorem resume_held_keeps {i : Instr} {p : Point} {s : State} (h : (resume i p s).busy = true) :
    (resume i p s).result = s.result ∧ (resume i p s).failReg = s.failReg ∧
      (resume i p s).trimMult = s.trimMult ∧ (resume i p s).trimZero = s.trimZero ∧
      (resume i p s).spr1 = s.spr1 ∧ (resume i p s).spr2 = s.spr2 ∧
      (resume i p s).host = s.host ∧ (resume i p s).cfg = s.cfg := by
  obtain ⟨u, q, hu, he⟩ := resume_busy h
  rw [he]
  simpa using ⟨hu.result, hu.failReg, hu.trimMult, hu.trimZero, hu.spr1, hu.spr2, hu.host, hu.cfg⟩

/-- How a command that ended reports its outcome (R33). -/
theorem resume_outcome {i : Instr} {p : Point} {s : State} (hs : s.seq ≠ .idle) (h : (resume i p s).seq = .idle) :
    ((resume i p s).result = .ok ∧ (resume i p s).failReg = 0x00) ∨
      ((resume i p s).result = .transport ∧
        ∃ val rest, (resume i p s).log = .write s.cfg.devAddr.byte (resume i p s).failReg val .nack :: rest) := by
  obtain ⟨u, hu, he | ⟨w, he⟩ | ⟨q, he⟩⟩ := resume_ends i p s
  · rw [he]
    exact .inl ⟨complete_result _, complete_failReg _⟩
  · rw [he, ← hu.cfg]
    exact .inr ⟨raise_result .., w.val, u.log, rfl⟩
  · cases hseq : s.seq with
    | idle => exact absurd hseq hs
    | busy w' p' =>
      rw [he, holdAt_busy w' q p' u (hu.seq.trans hseq)] at h
      cases h

/-- Settles O44: a completed command sets FAIL_REG to 0, an aborted one ends with the event of its NACKed write. -/
theorem failRegReportsTheNackedWrite : Obligations.FailRegReportsTheNackedWrite := by
  refine ⟨fun i s t ht hidle => ?_, fun w e s t hd ht => ?_⟩
  · rw [exec_eq_resume] at ht
    cases ht
    exact resume_outcome (by simp) hidle
  · rw [acceptWord, hd] at ht
    cases ht
    exact ⟨rfl, rfl⟩

theorem resumeWord_legal {w : Word} {i : Instr} {s : State} (p : Point) (h : decode s.cfg.lit w = .ok i) :
    resumeWord w p s = resume i p s := by
  rw [resumeWord, h]

theorem resumeWord_illegal {w : Word} {e : Illegal} {s : State} (p : Point) (h : decode s.cfg.lit w = .error e) :
    resumeWord w p s = raise (.illegal w) s := by
  rw [resumeWord, h]

theorem resumeWord_cfg (w : Word) (p : Point) (s : State) : (resumeWord w p s).cfg = s.cfg := by
  cases hd : decode s.cfg.lit w with
  | ok i => rw [resumeWord_legal p hd, resume_cfg]
  | error e => rw [resumeWord_illegal p hd, raise_cfg]

theorem resumeWord_host (w : Word) (p : Point) (s : State) : (resumeWord w p s).host = s.host := by
  cases hd : decode s.cfg.lit w with
  | ok i => rw [resumeWord_legal p hd, resume_host]
  | error e => rw [resumeWord_illegal p hd, raise_host]

theorem abandon_cfg (strap : Option DevAddr) (s : State) :
    (abandon strap s).cfg = { s.cfg with devAddr := strap.getD s.cfg.devAddr } := by
  obtain ⟨w, -, h⟩ | ⟨-, tr, dw, h⟩ := abandon_cases strap s <;> rw [h] <;> rfl

/-- What a step does to the parameters: nothing, or a reset sets the strap (R38, R193). -/
theorem step_cfg {s t : State} (h : step s = .next t) :
    t.cfg = s.cfg ∨ ∃ strap rest, s.host = .rst strap :: rest ∧
      t.cfg = { s.cfg with devAddr := strap.getD s.cfg.devAddr } := by
  obtain ⟨-, ⟨-, -, rfl⟩ | ⟨strap, rest, -, hh, rfl⟩ | ⟨w, rest, i, -, -, -, rfl⟩ | ⟨w, rest, e, -, -, -, rfl⟩ |
    ⟨w, p, -, -, rfl⟩ | ⟨w, p, strap, rest, -, hh, rfl⟩⟩ := step_cases h
  · exact .inl rfl
  · exact .inr ⟨strap, rest, hh, rfl⟩
  · exact .inl (resume_cfg ..)
  · exact .inl rfl
  · exact .inl (resumeWord_cfg ..)
  · exact .inr ⟨strap, rest, hh, abandon_cfg ..⟩

/-- Settles O53: no command writes the configuration, and a reset writes its strap only. -/
theorem parametersAreConstantBetweenResets : Obligations.ParametersAreConstantBetweenResets := by
  intro s t h
  obtain hcfg | ⟨strap, rest, hh, hcfg⟩ := step_cfg h
  · exact ⟨fun _ => hcfg, by rw [hcfg]⟩
  · exact ⟨fun hno => absurd hh (hno strap rest), by rw [hcfg]⟩

end Sys2Proof.Machine

/-! What a command does not see: a change of the state that no primitive sees, no command sees. It is carried through the
command, or overwritten at its end. -/

namespace Sys2Proof.Machine

/-- The flow with its state changed: by `on` where it goes on, by `off` where it is over. -/
def Flow.map (on off : State → State) (f : Flow) : Flow :=
  match f with
  | .on s => .on (on s)
  | .off s => .off (off s)

section Unseen
variable {on off : State → State}

/-- No write and no part of EnsureReady sees the change `on`; it comes out as `off` where the command ends. -/
structure Unseen (on off : State → State) : Prop where
  chipInit : ∀ s, (on s).chipInit = s.chipInit
  cfg : ∀ s, (on s).cfg = s.cfg
  transport : ∀ s, (on s).transport = s.transport
  answered : ∀ w s, (on s).answered w .ok = on (s.answered w .ok)
  nacked : ∀ w s, raise (.transport w.reg) ((on s).answered w .nack) = off (raise (.transport w.reg) (s.answered w .nack))
  holdAt : ∀ p s, (on s).holdAt p = off (s.holdAt p)
  markReady : ∀ s, (on s).markReady = on s.markReady
  complete : ∀ s, complete (on s) = off (complete s)
  effect : ∀ i s, effect i (on s) = on (effect i s)

theorem andThen_map {f : Flow} {g h : State → Flow} (hg : ∀ s, g (on s) = (h s).map on off) :
    (f.map on off).andThen g = (f.andThen h).map on off := by
  cases f with
  | on s => exact hg s
  | off s => rfl

theorem Unseen.memWrite (un : Unseen on off) (p : Point) (w : RegWrite) (s : State) :
    memWrite p w (on s) = (memWrite p w s).map on off := by
  rw [Machine.memWrite, Machine.memWrite, un.transport, un.answered, un.nacked, un.holdAt]
  cases s.transport.head <;> rfl

theorem Unseen.memWrites (un : Unseen on off) (pt : Nat → Point) (ws : List RegWrite) :
    ∀ (k : Nat) (s : State), memWrites pt k ws (on s) = (memWrites pt k ws s).map on off := by
  induction ws with
  | nil => exact fun k s => rfl
  | cons w ws ih =>
    intro k s
    simp only [Machine.memWrites, un.memWrite]
    cases Machine.memWrite (pt k) w s with
    | on t => exact ih _ t
    | off t => rfl

theorem Unseen.ensureReady (un : Unseen on off) (p : Point) (s : State) :
    ensureReady p (on s) = (ensureReady p s).map on off := by
  cases p with
  | wake k =>
    cases hc : s.chipInit with
    | true => rw [ensureReady_ready _ hc, ensureReady_ready _ ((un.chipInit s).trans hc)]; rfl
    | false =>
      rw [ensureReady_wake k hc, ensureReady_wake k ((un.chipInit s).trans hc), un.cfg, un.memWrites]
      exact andThen_map fun t => congrArg Flow.on (un.markReady t)
  | body k => rfl
  | dwell => rfl

theorem Unseen.wakeFlow (un : Unseen on off) (i : Instr) (p : Point) (s : State) :
    (if wakes i (on s) then Machine.ensureReady p (on s) else .on (on s)) =
      (if wakes i s then Machine.ensureReady p s else .on s).map on off := by
  rw [wakes, un.cfg, ← wakes]
  split
  · exact un.ensureReady p s
  · rfl

theorem Unseen.bodyFrom (un : Unseen on off) {list : State → List RegWrite} (hl : ∀ s, list (on s) = list s) (p : Point)
    (s : State) : bodyFrom list p (on s) = (bodyFrom list p s).map on off := by
  rw [Machine.bodyFrom, hl]
  exact un.memWrites _ _ _ s

/-- A command that is no turn carries the change through. -/
theorem Unseen.ownFlow_list (un : Unseen on off) {i : Instr} (h : turnOf i = none)
    (hl : ∀ s, ownWrites i (on s) = ownWrites i s) (p : Point) (s : State) :
    ownFlow i p (on s) = (ownFlow i p s).map on off := by
  rw [Machine.ownFlow_list h, Machine.ownFlow_list h, un.bodyFrom hl]
  exact andThen_map fun t => congrArg Flow.on (un.effect i t)

theorem Unseen.finish (un : Unseen on off) (f : Flow) : (f.map on off).finish = off f.finish := by
  cases f with
  | on s => exact un.complete s
  | off s => rfl

/-- Nothing in any command sees the change, the turns included. -/
structure UnseenByTurns (on off : State → State) : Prop extends Unseen on off where
  dwells : ∀ s, (on s).dwells = s.dwells
  dwelt : ∀ s, (on s).dwelt = on s.dwelt
  turnStart : ∀ s, turnStart (on s) = on (turnStart s)
  turnAdvance : ∀ d s, turnAdvance d (on s) = on (turnAdvance d s)
  stepI : ∀ s, (on s).stepI = s.stepI
  ownWrites : ∀ i s, ownWrites i (on s) = ownWrites i s
  stepTotal : ∀ i s, stepTotal i (on s) = stepTotal i s

theorem UnseenByTurns.dwell (un : UnseenByTurns on off) (s : State) : dwell (on s) = (dwell s).map on off := by
  rw [Machine.dwell, Machine.dwell, un.dwells, un.dwelt, un.holdAt]
  cases s.dwells.head <;> rfl

theorem UnseenByTurns.turnLoop (un : UnseenByTurns on off) (k : Nat) (dir : Dir) (n : Nat) :
    ∀ (p : Point) (s : State), turnLoop k dir n p (on s) = (turnLoop k dir n p s).map on off := by
  have steps : ∀ s, stepWriteList k (on s) = stepWriteList k s := un.ownWrites (.stepTurn k dir 0)
  induction n with
  | zero => exact fun p s => rfl
  | succ n ih =>
    intro p s
    rw [turnLoop_succ, turnLoop_succ, un.bodyFrom steps, andThen_map un.dwell]
    exact andThen_map fun t => by rw [un.turnAdvance]; exact ih _ _

theorem UnseenByTurns.turnSteps (un : UnseenByTurns on off) (k : Nat) (dir : Dir) (steps : Nat) (p : Point) (s : State) :
    turnSteps k dir steps p (on s) = (turnSteps k dir steps p s).map on off := by
  cases p with
  | wake j => simp only [Machine.turnSteps, un.turnStart, un.turnLoop]
  | body j => simp only [Machine.turnSteps, un.stepI, un.turnLoop]
  | dwell => simp only [Machine.turnSteps, un.stepI, un.turnLoop]

theorem UnseenByTurns.ownFlow (un : UnseenByTurns on off) (i : Instr) (p : Point) (s : State) :
    ownFlow i p (on s) = (ownFlow i p s).map on off := by
  cases h : turnOf i with
  | none => exact un.ownFlow_list h (un.ownWrites i) p s
  | some kd => rw [ownFlow_turn h, ownFlow_turn h, un.stepTotal, un.turnSteps]

/-- No command sees the change, from any control point. -/
theorem UnseenByTurns.resume (un : UnseenByTurns on off) (i : Instr) (p : Point) (s : State) :
    resume i p (on s) = off (resume i p s) := by
  rw [resume_eq, resume_eq, cmdFlow, un.wakeFlow, andThen_map (un.ownFlow i p), un.finish]
  rfl

end Unseen

/-- SEQ moved to control point `q` of the same command. -/
def SeqPos.moveTo (q : Point) : SeqPos → SeqPos
  | .idle => .idle
  | .busy w _ => .busy w q

theorem moveTo_moveTo (p q : Point) (sq : SeqPos) : (sq.moveTo q).moveTo p = sq.moveTo p := by
  cases sq <;> rfl

/-- A hold moves SEQ and nothing else (R21). -/
theorem holdAt_eq (q : Point) (s : State) : s.holdAt q = { s with seq := s.seq.moveTo q } := by
  unfold State.holdAt
  split <;> next h => rw [h]; cases s; cases h; rfl

/-- A hold commutes with every update that leaves SEQ alone. -/
theorem holdAt_comm {g : State → State} (hseq : ∀ s, (g s).seq = s.seq)
    (hset : ∀ s sq, g { s with seq := sq } = { g s with seq := sq }) (q : Point) (s : State) :
    (g s).holdAt q = g (s.holdAt q) := by
  rw [holdAt_eq q s]
  exact (holdAt_eq q (g s)).trans (Eq.trans (by rw [hseq]) (hset s _).symm)

/-- PHASE and STEP_I replaced. -/
def State.withCounters (p : BitVec 2) (c : BitVec 17) (s : State) : State := { s with phase := p, stepI := c }

/-- EnsureReady, the lists of writes and the setters do not see PHASE and STEP_I (R27, R28). -/
theorem unseen_withCounters (p : BitVec 2) (c : BitVec 17) : Unseen (State.withCounters p c) (State.withCounters p c) where
  chipInit _ := rfl
  cfg _ := rfl
  transport _ := rfl
  answered _ _ := rfl
  nacked _ _ := rfl
  holdAt := holdAt_comm (fun _ => rfl) (fun _ _ => rfl)
  markReady _ := rfl
  complete _ := rfl
  effect := effect_comm (fun _ => rfl) (fun _ _ => rfl) (fun _ _ => rfl) (fun _ _ => rfl) (fun _ _ => rfl)

/-- A turn from its start sets both counters first (R132). -/
theorem ownFlow_turn_withCounters {i : Instr} {kd : Nat × Dir} (h : turnOf i = some kd) (k : Nat) (p : BitVec 2)
    (c : BitVec 17) (s : State) : ownFlow i (.wake k) (s.withCounters p c) = ownFlow i (.wake k) s := by
  have total : stepTotal i (s.withCounters p c) = stepTotal i s := by cases i <;> rfl
  rw [ownFlow_turn h, ownFlow_turn h, total]
  rfl

theorem ownWrites_withCounters {i : Instr} (h : turnOf i = none) (p : BitVec 2) (c : BitVec 17) (s : State) :
    ownWrites i (s.withCounters p c) = ownWrites i s := by
  cases i with
  | stepTurn k dir imm => cases h
  | stepAngle k dir imm => cases h
  | _ => rfl

/-- A command from its start depends on PHASE and STEP_I in these two fields of its last state only (R27, R28). -/
theorem resume_withCounters (i : Instr) (k : Nat) (p : BitVec 2) (c : BitVec 17) (s : State) :
    ∃ p' c', resume i (.wake k) (s.withCounters p c) = (resume i (.wake k) s).withCounters p' c' := by
  have un := unseen_withCounters p c
  rw [resume_eq, resume_eq, cmdFlow, un.wakeFlow]
  cases h : turnOf i with
  | none =>
    rw [andThen_map (un.ownFlow_list h (ownWrites_withCounters h p c) _), un.finish]
    exact ⟨p, c, rfl⟩
  | some kd =>
    rw [cmdFlow]
    cases (if wakes i s then ensureReady (.wake k) s else .on s) with
    | on t =>
      have h' : ownFlow i (.wake k) (t.withCounters p c) = ownFlow i (.wake k) t := ownFlow_turn_withCounters h ..
      exact ⟨_, _, congrArg Flow.finish h'⟩
    | off t => exact ⟨p, c, rfl⟩

/-- Settles O31: the command's run is blind to both counters until a turn sets them. -/
theorem phaseAndStepCounterAreUnobservable : Obligations.PhaseAndStepCounterAreUnobservable := by
  intro i s t t' p c ht ht'
  rw [exec_eq_resume] at ht ht'
  obtain ⟨p', c', h⟩ := resume_withCounters i 0 p c (accept (encode i) s)
  cases ht
  cases ht'.symm.trans (congrArg Host.Outcome.next h)
  exact ⟨rfl, rfl⟩

/-- The host's inputs replaced. -/
def State.withHost (h : List HostInput) (s : State) : State := { s with host := h }

/-- No command sees what the host does (R36). -/
theorem unseen_withHost (h : List HostInput) : UnseenByTurns (State.withHost h) (State.withHost h) where
  chipInit _ := rfl
  cfg _ := rfl
  transport _ := rfl
  answered _ _ := rfl
  nacked _ _ := rfl
  holdAt := holdAt_comm (fun _ => rfl) (fun _ _ => rfl)
  markReady _ := rfl
  complete _ := rfl
  effect := effect_comm (fun _ => rfl) (fun _ _ => rfl) (fun _ _ => rfl) (fun _ _ => rfl) (fun _ _ => rfl)
  dwells _ := rfl
  dwelt _ := rfl
  turnStart _ := rfl
  turnAdvance _ _ := rfl
  stepI _ := rfl
  ownWrites i _ := by cases i <;> rfl
  stepTotal i _ := by cases i <;> rfl

/-- Where SEQ stood when the command was held, no command sees (R21). -/
theorem unseen_holdAt (q : Point) : UnseenByTurns (State.holdAt q) id where
  chipInit := holdAt_chipInit q
  cfg := holdAt_cfg q
  transport := holdAt_transport q
  answered _ _ := by simp only [holdAt_eq]; rfl
  nacked _ _ := by simp only [holdAt_eq]; rfl
  holdAt p s := by simp only [holdAt_eq, moveTo_moveTo, id]
  markReady _ := by simp only [holdAt_eq]; rfl
  complete _ := by simp only [holdAt_eq]; rfl
  effect := by
    rw [funext (holdAt_eq q)]
    exact effect_comm (fun _ => rfl) (fun _ _ => rfl) (fun _ _ => rfl) (fun _ _ => rfl) (fun _ _ => rfl)
  dwells := holdAt_dwells q
  dwelt _ := by simp only [holdAt_eq]; rfl
  turnStart _ := by simp only [holdAt_eq]; rfl
  turnAdvance _ _ := by simp only [holdAt_eq]; rfl
  stepI := holdAt_stepI q
  ownWrites i _ := by rw [holdAt_eq]; cases i <;> rfl
  stepTotal i _ := by rw [holdAt_eq]; cases i <;> rfl

theorem resumeWord_withHost (w : Word) (p : Point) (h : List HostInput) (s : State) :
    resumeWord w p (s.withHost h) = (resumeWord w p s).withHost h := by
  cases hd : decode s.cfg.lit w with
  | ok i =>
    rw [resumeWord_legal p hd, resumeWord_legal (s := s.withHost h) p hd]
    exact (unseen_withHost h).resume i p s
  | error e =>
    rw [resumeWord_illegal p hd, resumeWord_illegal (s := s.withHost h) p hd]
    rfl

/-- The step of a BUSY block that is not reset runs its word on from its control point (R21, R36). -/
theorem step_busy {s : State} {w : Word} {p : Point} (hshared : s.shared = false) (hseq : s.seq = .busy w p)
    (hno : s.NoReset) : step s = .next (resumeWord w p s) := by
  rw [step, sequencerStep, hshared, if_neg (by decide), hseq]
  show Host.Outcome.next (busyStep w p s) = _
  unfold busyStep
  split
  · rfl
  · rfl
  · next strap rest hh => exact absurd hh (hno strap rest)

/-- A step that is answered has a configuration that is not refused (R63). -/
theorem not_shared_of_step {s t : State} (h : step s = .next t) : s.shared = false := (step_cases h).1

/-- Settles O50: the step with the word on the channel and the one without it are the same resumption. -/
theorem noCommandIsAcceptedWhileBusy : Obligations.NoCommandIsAcceptedWhileBusy := by
  intro s t w p v rest hseq hhost h
  have hno : s.NoReset := fun strap rest' hh => by rw [hhost] at hh; cases hh
  have hshared := not_shared_of_step h
  rw [step_busy hshared hseq hno] at h
  cases h
  refine ⟨resumeWord_host .., ?_⟩
  have hempty := step_busy (s := s.withHost []) hshared hseq (fun _ _ hh => nomatch hh)
  rw [resumeWord_withHost] at hempty
  exact hempty

end Sys2Proof.Machine

/-! The count of a turn fits STEP_I where the angle's range is not a point (R28, R130, R136). -/

namespace Sys2Proof.Machine

section StepCount

theorem clamp_bounds {lo hi : Int} (h : lo ≤ hi) (v : Int) : lo ≤ clamp lo hi v ∧ clamp lo hi v ≤ hi := by
  unfold clamp
  omega

/-- A signed magnitude is at most `m` where the magnitude of a number that is not negative is. -/
theorem sign_mul_le {a q m : Int} (hq : 0 ≤ q) (hm : 0 ≤ m) (h : 0 ≤ a → q ≤ m) : a.sign * q ≤ m := by
  rcases Int.lt_trichotomy a 0 with ha | rfl | ha
  · rw [Int.sign_eq_neg_one_of_neg ha]
    omega
  · simpa using hm
  · rw [Int.sign_eq_one_of_pos ha, one_mul]
    exact h ha.le

/-- A quotient under any rounding is at most a bound `m` on the exact one. -/
theorem roundDiv_le (r : StepRound) {a b m : Int} (hb : 0 < b) (hm : 0 ≤ m) (h : a ≤ m * b) : roundDiv r a b ≤ m := by
  cases r with
  | trunc =>
    have habs : (b.natAbs : Int) = b := Int.natAbs_of_nonneg hb.le
    simp only [roundDiv, tdiv, fdiv, Int.sign_eq_one_of_pos hb, mul_one, habs]
    refine sign_mul_le (Int.ediv_nonneg (by omega) hb.le) hm fun ha => ?_
    exact Int.ediv_le_of_le_mul hb (by rwa [Int.natAbs_of_nonneg ha])
  | floor => exact Int.ediv_le_of_le_mul hb h
  | nearest =>
    refine sign_mul_le (Int.ediv_nonneg (by omega) (by omega)) hm fun ha => ?_
    refine Int.lt_add_one_iff.mp (Int.ediv_lt_of_lt_mul (by omega) ?_)
    rw [Int.natAbs_of_nonneg ha]
    linarith
  | ceil => exact Int.neg_le_of_neg_le (Int.le_ediv_of_mul_le hb (by linarith))

/-- No command turns more than 65535 steps (R130, R136), so STEP_I never overflows (R28). -/
theorem stepTotal_lt {i : Instr} {s : State} (h : s.cfg.lit.angleMin < s.cfg.lit.angleMax) : stepTotal i s < 2 ^ 16 := by
  cases i with
  | stepTurn k dir imm => exact lt_of_le_of_lt (Nat.mod_le _ _) imm.isLt
  | stepAngle k dir imm =>
    obtain ⟨hlo, hhi⟩ := clamp_bounds h.le (sext16 imm)
    have hspr := (s.spr k).isLt
    have hq : roundDiv s.cfg.stepRound
        ((stepperAngle s.cfg.lit imm - s.cfg.lit.angleMin) * (((s.spr k).toNat : Int) - 1))
        (s.cfg.lit.angleMax - s.cfg.lit.angleMin) ≤ 65534 := by
      refine roundDiv_le _ (by omega) (by decide) ?_
      unfold stepperAngle
      nlinarith
    show (angleToSteps _ _ _ _).toNat < _
    unfold angleToSteps
    omega
  | _ => exact Nat.two_pow_pos 16

end StepCount

end Sys2Proof.Machine

/-! From control point to control point (R21): where a command goes when the environment lets it pass one, and the run of a
command as the steps between them. -/

namespace Sys2Proof.Machine

section Progress

/-- Where a command stands between two control points: before the point `p`, or with nothing left to do but to complete. -/
inductive Progress where
  | point (p : Point) (s : State)
  | done (s : State)

/-- The state of a command that stands there. -/
def Progress.state : Progress → State
  | .point _ s => s
  | .done s => s

/-- What is left of the command. -/
def Progress.flow (i : Instr) : Progress → Flow
  | .point p s => cmdFlow i p s
  | .done s => .on s

/-- The state in which the step of the command ends from there. -/
def Progress.run (i : Instr) (pr : Progress) : State := (pr.flow i).finish

/-- The same place in another state. -/
def Progress.map (g : State → State) : Progress → Progress
  | .point p s => .point p (g s)
  | .done s => .done (g s)

/-- The phase advance at the end of a step of a turn (R133). -/
def advance (i : Instr) (s : State) : State :=
  match turnOf i with
  | some (_, dir) => turnAdvance dir s
  | none => s

/-- The head of a turn's loop: `STEP_I < steps` (R133). -/
def loopHead (i : Instr) (s : State) : Progress :=
  if s.stepI.toNat < stepTotal i s then .point (.body 0) s else .done s

/-- A command's first own control point, once EnsureReady is over. -/
def enterOwn (i : Instr) (s : State) : Progress :=
  if turns i then loopHead i (turnStart s)
  else if 0 < (ownWrites i s).length then .point (.body 0) s else .done (effect i s)

/-- Where a command goes from control point `p`, its write answered OK or its dwell elapsed. -/
def passed (i : Instr) (p : Point) (s : State) : Progress :=
  match p with
  | .wake k => if k + 1 < (wakeWrites s.cfg.lit).length then .point (.wake (k + 1)) s else enterOwn i s.markReady
  | .body k =>
    if k + 1 < (ownWrites i s).length then .point (.body (k + 1)) s
    else if turns i then .point .dwell s else .done (effect i s)
  | .dwell => loopHead i (advance i s)

/-- The first control point of an accepted command (R36). -/
def firstPoint (i : Instr) (s : State) : Progress :=
  if s.chipInit = false ∧ wakes i s = true then .point (.wake 0) s else enterOwn i s

/-- Between two control points a command neither moves SEQ nor emits an event. -/
def Silent (s u : State) : Prop := u.seq = s.seq ∧ u.log = s.log ∧ u.cfg = s.cfg

theorem loopHead_silent (i : Instr) (s : State) : Silent s (loopHead i s).state := by
  unfold loopHead
  split <;> exact ⟨rfl, rfl, rfl⟩

theorem enterOwn_silent (i : Instr) (s : State) : Silent s (enterOwn i s).state := by
  unfold enterOwn
  split
  · exact loopHead_silent i (turnStart s)
  · split
    · exact ⟨rfl, rfl, rfl⟩
    · exact ⟨effect_seq .., effect_log .., effect_cfg ..⟩

theorem firstPoint_silent (i : Instr) (s : State) : Silent s (firstPoint i s).state := by
  unfold firstPoint
  split
  · exact ⟨rfl, rfl, rfl⟩
  · exact enterOwn_silent i s

theorem passed_silent (i : Instr) (p : Point) (s : State) : Silent s (passed i p s).state := by
  cases p with
  | wake k =>
    rw [passed]
    split
    · exact ⟨rfl, rfl, rfl⟩
    · exact enterOwn_silent i s.markReady
  | body k =>
    rw [passed]
    split
    · exact ⟨rfl, rfl, rfl⟩
    · split
      · exact ⟨rfl, rfl, rfl⟩
      · exact ⟨effect_seq .., effect_log .., effect_cfg ..⟩
  | dwell =>
    rw [passed, advance]
    split <;> exact loopHead_silent i _

theorem turnOf_none_iff (i : Instr) : turnOf i = none ↔ turns i = false := by
  cases i <;> simp [turnOf, turns]

theorem turns_of_turnOf {i : Instr} {kd : Nat × Dir} (h : turnOf i = some kd) : turns i = true := by
  cases ht : turns i with
  | true => rfl
  | false => rw [(turnOf_none_iff i).mpr ht] at h; cases h

theorem exists_turnOf {i : Instr} (h : turns i = true) : ∃ k dir, turnOf i = some (k, dir) := by
  cases ht : turnOf i with
  | some kd => exact ⟨kd.1, kd.2, rfl⟩
  | none => rw [(turnOf_none_iff i).mp ht] at h; cases h

/-- After its dwell a turn advances and is at its loop head (R133). -/
theorem passed_dwell {i : Instr} {k : Nat} {dir : Dir} (h : turnOf i = some (k, dir)) (s : State) :
    passed i .dwell s = loopHead i (turnAdvance dir s) := by
  rw [passed, advance, h]

theorem ownWrites_turn {i : Instr} {k : Nat} {dir : Dir} (h : turnOf i = some (k, dir)) (s : State) :
    ownWrites i s = stepWriteList k s := by
  cases i with
  | stepTurn k' dir' imm => cases h; rfl
  | stepAngle k' dir' imm => cases h; rfl
  | _ => cases h

@[simp] theorem ownWrites_answered (i : Instr) (w : RegWrite) (q : Resp) (s : State) :
    ownWrites i (s.answered w q) = ownWrites i s := by cases i <;> rfl

@[simp] theorem ownWrites_markReady (i : Instr) (s : State) : ownWrites i s.markReady = ownWrites i s := by cases i <;> rfl

@[simp] theorem stepTotal_answered (i : Instr) (w : RegWrite) (q : Resp) (s : State) :
    stepTotal i (s.answered w q) = stepTotal i s := by cases i <;> rfl

@[simp] theorem stepTotal_dwelt (i : Instr) (s : State) : stepTotal i s.dwelt = stepTotal i s := by cases i <;> rfl

@[simp] theorem stepTotal_markReady (i : Instr) (s : State) : stepTotal i s.markReady = stepTotal i s := by cases i <;> rfl

@[simp] theorem stepTotal_turnStart (i : Instr) (s : State) : stepTotal i (turnStart s) = stepTotal i s := by cases i <;> rfl

@[simp] theorem stepTotal_turnAdvance (i : Instr) (d : Dir) (s : State) : stepTotal i (turnAdvance d s) = stepTotal i s := by
  cases i <;> rfl

end Progress

section Flows

theorem cmdFlow_body (i : Instr) (k : Nat) (s : State) : cmdFlow i (.body k) s = ownFlow i (.body k) s := by
  rw [cmdFlow, ensureReady_past, ite_self, andThen_on]

theorem cmdFlow_dwell (i : Instr) (s : State) : cmdFlow i .dwell s = ownFlow i .dwell s := by
  rw [cmdFlow, ensureReady_dwell, ite_self, andThen_on]

theorem cmdFlow_wake {i : Instr} {s : State} (k : Nat) (hc : s.chipInit = false) (hw : wakes i s = true) :
    cmdFlow i (.wake k) s = (memWrites .wake k ((wakeWrites s.cfg.lit).drop k) s).andThen fun t =>
      ownFlow i (.wake k) t.markReady := by
  rw [cmdFlow, if_pos hw, ensureReady_wake k hc, andThen_assoc]
  rfl

/-- A command that does not run the wake sequence is at its own statements. -/
theorem cmdFlow_ready {i : Instr} {s : State} (k : Nat) (h : ¬ (s.chipInit = false ∧ wakes i s = true)) :
    cmdFlow i (.wake k) s = ownFlow i (.wake k) s := by
  rw [cmdFlow]
  split
  · next hw => rw [ensureReady_ready _ (by simpa [hw] using h), andThen_on]
  · rfl

/-- Before its own list a command starts it, whatever wake point it comes from. -/
theorem ownFlow_wake (i : Instr) (k : Nat) (s : State) : ownFlow i (.wake k) s = ownFlow i (.wake 0) s := by
  cases i <;> rfl

theorem memWrites_cons (pt : Nat → Point) (k : Nat) (w : RegWrite) (ws : List RegWrite) (s : State) :
    memWrites pt k (w :: ws) s = (memWrite (pt k) w s).andThen (memWrites pt (k + 1) ws) := by
  rw [memWrites]
  split <;> next h => rw [h]; rfl

/-- The first write of the rest of a list. -/
theorem memWrites_drop {ws : List RegWrite} {k : Nat} {w : RegWrite} (h : ws[k]? = some w) (pt : Nat → Point) (s : State) :
    memWrites pt k (ws.drop k) s = (memWrite (pt k) w s).andThen (memWrites pt (k + 1) (ws.drop (k + 1))) := by
  rw [List.drop_eq_getElem?_toList_append, h]
  exact memWrites_cons ..

/-- A turn at its loop head goes on as the loop with the steps that are left (R133). -/
theorem loopHead_flow {i : Instr} {k : Nat} {dir : Dir} (h : turnOf i = some (k, dir)) (s : State) :
    (loopHead i s).flow i = turnLoop k dir (stepTotal i s - s.stepI.toNat) (.body 0) s := by
  unfold loopHead
  split
  · rw [Progress.flow, cmdFlow_body, ownFlow_turn h]
    rfl
  · next hlt =>
    rw [Nat.sub_eq_zero_of_le (not_lt.mp hlt)]
    rfl

theorem enterOwn_flow (i : Instr) (s : State) : (enterOwn i s).flow i = ownFlow i (.wake 0) s := by
  unfold enterOwn
  cases h : turnOf i with
  | some kd =>
    obtain ⟨k, dir⟩ := kd
    rw [if_pos (turns_of_turnOf h), loopHead_flow h, ownFlow_turn h, stepTotal_turnStart]
    rfl
  | none =>
    rw [if_neg (by simp [(turnOf_none_iff i).mp h])]
    split
    · rw [Progress.flow, cmdFlow_body, ownFlow_list h, ownFlow_list h]
      rfl
    · next hlen =>
      rw [ownFlow_list h, bodyFrom, List.eq_nil_of_length_eq_zero (Nat.eq_zero_of_not_pos hlen), List.drop_nil]
      rfl

theorem firstPoint_flow (i : Instr) (s : State) : (firstPoint i s).flow i = cmdFlow i (.wake 0) s := by
  unfold firstPoint
  split
  · rfl
  · next h => rw [enterOwn_flow, cmdFlow_ready 0 h]

theorem bodyFrom_past {list : State → List RegWrite} {p : Point} {s : State} (h : (list s).length ≤ p.index) :
    bodyFrom list p s = .on s := by
  rw [bodyFrom, List.drop_eq_nil_of_le h]
  rfl

theorem bodyFrom_answered {list : State → List RegWrite} {k : Nat} {s : State} {w : RegWrite} (hw : (list s)[k]? = some w)
    (hok : s.transport.head = .ok) (hl : list (s.answered w .ok) = list s) :
    bodyFrom list (.body k) s = bodyFrom list (.body (k + 1)) (s.answered w .ok) := by
  refine (memWrites_drop hw .body s).trans ?_
  rw [memWrite_ok hok, bodyFrom, hl]
  rfl

theorem bodyFrom_off {list : State → List RegWrite} {k : Nat} {s t : State} {w : RegWrite} (hw : (list s)[k]? = some w)
    (hoff : memWrite (.body k) w s = .off t) : bodyFrom list (.body k) s = .off t := by
  refine (memWrites_drop hw .body s).trans ?_
  rw [hoff]
  rfl

/-- A turn in progress: what is left of the current step, and the loop head after it (R133). -/
theorem cmdFlow_turn {i : Instr} {k : Nat} {dir : Dir} (h : turnOf i = some (k, dir)) {p : Point} {s : State}
    (hp : ∀ j, p ≠ .wake j) (hlt : s.stepI.toNat < stepTotal i s) :
    cmdFlow i p s = ((bodyFrom (stepWriteList k) p s).andThen dwell).andThen fun t =>
      turnLoop k dir (stepTotal i s - s.stepI.toNat - 1) (.body 0) (turnAdvance dir t) := by
  have left : stepTotal i s - s.stepI.toNat = (stepTotal i s - s.stepI.toNat - 1) + 1 := by omega
  cases p with
  | wake j => exact absurd rfl (hp j)
  | body j =>
    rw [cmdFlow_body, ownFlow_turn h, ← turnLoop_succ, ← left]
    rfl
  | dwell =>
    rw [cmdFlow_dwell, ownFlow_turn h, ← turnLoop_succ, ← left]
    rfl

theorem writeAt_body {i : Instr} {k : Nat} {s : State} {w : RegWrite} (h : writeAt i (.body k) s = some w) :
    (ownWrites i s)[k]? = some w := h

/-- The item with none after it is the last one. -/
theorem length_of_getElem?_last {α : Type} {l : List α} {k : Nat} {a : α} (h : l[k]? = some a) (hk : ¬ k + 1 < l.length) :
    l.length = k + 1 := by
  have := (List.getElem?_eq_some_iff.mp h).1
  omega

/-- A write answered OK takes the command on to where `passed` says (R12, R53). -/
theorem cmdFlow_answered {i : Instr} {p : Point} {s : State} {w : RegWrite} (hp : PointOk i p s)
    (hw : writeAt i p s = some w) (hok : s.transport.head = .ok) :
    cmdFlow i p s = (passed i p (s.answered w .ok)).flow i := by
  cases p with
  | dwell => cases hw
  | wake k =>
    obtain ⟨hc, hk, hwakes⟩ := hp
    have hwk : wakes i s = true := by simpa [wakes] using hwakes
    rw [cmdFlow_wake k hc hwk, memWrites_drop hw, memWrite_ok hok, andThen_on, passed, answered_cfg]
    split
    · exact (cmdFlow_wake (i := i) (s := s.answered w .ok) (k + 1) hc hwk).symm
    · next hlast =>
      rw [List.drop_eq_nil_of_le (not_lt.mp hlast), enterOwn_flow, ← ownFlow_wake i k]
      rfl
  | body k =>
    have hlen (hlast : ¬ k + 1 < (ownWrites i (s.answered w .ok)).length) : (ownWrites i s).length = k + 1 := by
      rw [ownWrites_answered] at hlast
      exact length_of_getElem?_last hw hlast
    obtain ⟨-, -, hlt⟩ := hp
    cases h : turnOf i with
    | none =>
      have step := bodyFrom_answered (list := ownWrites i) hw hok (ownWrites_answered ..)
      rw [cmdFlow_body, ownFlow_list h, step, passed]
      split
      · rw [Progress.flow, cmdFlow_body, ownFlow_list h]
      · next hlast =>
        rw [if_neg (by simp [(turnOf_none_iff i).mp h]), bodyFrom_past (by simp [Point.index, hlen hlast])]
        rfl
    | some kd =>
      obtain ⟨k', dir⟩ := kd
      have hlt := hlt (turns_of_turnOf h)
      have step := bodyFrom_answered (list := stepWriteList k') (by rwa [← ownWrites_turn h]) hok rfl
      rw [cmdFlow_turn h (by simp) hlt, step, passed]
      split
      · rw [Progress.flow, cmdFlow_turn h (by simp) (by simpa using hlt), stepTotal_answered, answered_stepI]
      · next hlast =>
        have h4 : 4 = k + 1 := by rw [← hlen hlast, ownWrites_turn h, stepWriteList_length]
        rw [if_pos (turns_of_turnOf h), Progress.flow, cmdFlow_turn h (by simp) (by simpa using hlt), stepTotal_answered,
          answered_stepI, ← h4, bodyFrom_past (p := .body 4) (by simp [Point.index]),
          bodyFrom_past (p := .dwell) (by simp [Point.index])]

/-- A write that ends the step ends the command's run there (R52, R174). -/
theorem cmdFlow_off {i : Instr} {p : Point} {s t : State} {w : RegWrite} (hp : PointOk i p s)
    (hw : writeAt i p s = some w) (hoff : memWrite p w s = .off t) : cmdFlow i p s = .off t := by
  cases p with
  | dwell => cases hw
  | wake k =>
    obtain ⟨hc, hk, hwakes⟩ := hp
    rw [cmdFlow_wake k hc (by simpa [wakes] using hwakes), memWrites_drop hw, hoff]
    rfl
  | body k =>
    obtain ⟨-, -, hlt⟩ := hp
    cases h : turnOf i with
    | none =>
      rw [cmdFlow_body, ownFlow_list h, bodyFrom_off (writeAt_body hw) hoff]
      rfl
    | some kd =>
      obtain ⟨k', dir⟩ := kd
      rw [cmdFlow_turn h (by simp) (hlt (turns_of_turnOf h)), bodyFrom_off (by rwa [← ownWrites_turn h]) hoff]
      rfl

/-- Every turn in progress has its loop count in STEP_I (R28). -/
theorem turnAdvance_stepI_toNat {i : Instr} {s : State} (dir : Dir) (hr : s.cfg.lit.angleMin < s.cfg.lit.angleMax)
    (hlt : s.stepI.toNat < stepTotal i s) : (turnAdvance dir s).stepI.toNat = s.stepI.toNat + 1 := by
  have := stepTotal_lt (i := i) hr
  rw [turnAdvance_stepI, BitVec.toNat_add_of_lt (by simp; omega)]
  rfl

/-- A turn at its dwell waits for it (R133, R180). -/
theorem cmdFlow_dwell_turn {i : Instr} {k : Nat} {dir : Dir} (h : turnOf i = some (k, dir)) {s : State}
    (hlt : s.stepI.toNat < stepTotal i s) :
    cmdFlow i .dwell s = (dwell s).andThen fun t =>
      turnLoop k dir (stepTotal i s - s.stepI.toNat - 1) (.body 0) (turnAdvance dir t) := by
  rw [cmdFlow_turn h (by simp) hlt, bodyFrom_past (by simp [Point.index])]
  rfl

/-- An elapsed dwell takes a turn on to its next step, or to its end (R133). -/
theorem cmdFlow_elapsed {i : Instr} {s : State} (hr : s.cfg.lit.angleMin < s.cfg.lit.angleMax) (hp : PointOk i .dwell s)
    (hd : s.dwells.head = .elapses) : cmdFlow i .dwell s = (passed i .dwell s.dwelt).flow i := by
  obtain ⟨-, ht, hlt⟩ := hp
  obtain ⟨k, dir, h⟩ := exists_turnOf ht
  rw [cmdFlow_dwell_turn h hlt, dwell_elapses hd, andThen_on, passed_dwell h, loopHead_flow h, stepTotal_turnAdvance,
    turnAdvance_stepI_toNat (i := i) (s := s.dwelt) dir hr (by simpa using hlt), stepTotal_dwelt, dwelt_stepI, Nat.sub_sub]

/-- A dwell that has not elapsed holds a turn there (R180). -/
theorem cmdFlow_holds {i : Instr} {s : State} (hp : PointOk i .dwell s) (hd : s.dwells.head = .holds) :
    cmdFlow i .dwell s = .off (s.holdAt .dwell) := by
  obtain ⟨-, ht, hlt⟩ := hp
  obtain ⟨k, dir, h⟩ := exists_turnOf ht
  rw [cmdFlow_dwell_turn h hlt, dwell_holds hd, andThen_off]

end Flows
section Runs

/-- The place is one at which a command can stand (R21), with a range of angles that is not a point. -/
def Progress.Ok (i : Instr) : Progress → Prop
  | .point p s => PointOk i p s ∧ s.cfg.lit.angleMin < s.cfg.lit.angleMax
  | .done _ => True

theorem writesRegisters_of_turns {i : Instr} (h : turns i = true) : writesRegisters i = true := by
  cases i with
  | stepTurn k dir imm => rfl
  | stepAngle k dir imm => rfl
  | _ => cases h

/-- The setters have no writes of their own (R103). -/
theorem writesRegisters_of_ownWrites {i : Instr} {s : State} (h : 0 < (ownWrites i s).length) : writesRegisters i = true := by
  cases i with
  | setMult imm => cases h
  | setZero imm => cases h
  | setSpr k imm => cases h
  | reducePulse imm => cases h
  | _ => rfl

theorem loopHead_ok {i : Instr} {s : State} (hc : s.chipInit = true) (hr : s.cfg.lit.angleMin < s.cfg.lit.angleMax)
    (ht : turns i = true) : (loopHead i s).Ok i := by
  unfold loopHead
  split
  · next hlt =>
    obtain ⟨k, dir, h⟩ := exists_turnOf ht
    exact ⟨⟨hc, by simp [ownWrites_turn h], fun _ => hlt⟩, hr⟩
  · trivial

theorem enterOwn_ok {i : Instr} {s : State} (h : s.chipInit = true ∨ wakes i s = false)
    (hr : s.cfg.lit.angleMin < s.cfg.lit.angleMax) : (enterOwn i s).Ok i := by
  have hc (hw : writesRegisters i = true) : s.chipInit = true := by simpa [wakes, hw] using h
  unfold enterOwn
  split
  · next ht => exact loopHead_ok (hc (writesRegisters_of_turns ht)) hr ht
  · next ht =>
    split
    · next hlen => exact ⟨⟨hc (writesRegisters_of_ownWrites hlen), hlen, fun h => absurd h ht⟩, hr⟩
    · trivial

theorem firstPoint_ok {i : Instr} {s : State} (hr : s.cfg.lit.angleMin < s.cfg.lit.angleMax) : (firstPoint i s).Ok i := by
  unfold firstPoint
  split
  · next h =>
    obtain ⟨hc, hw⟩ := h
    exact ⟨⟨hc, by simp [wakeWrites], by simpa [wakes] using hw⟩, hr⟩
  · next h => exact enterOwn_ok (by simpa [Classical.or_iff_not_imp_left] using h) hr

theorem passed_answered_ok {i : Instr} {p : Point} {s : State} {w : RegWrite} (hp : (Progress.point p s).Ok i)
    (hw : writeAt i p s = some w) :
    (passed i p (s.answered w .ok)).Ok i := by
  obtain ⟨hp, hr⟩ := hp
  cases p with
  | dwell => cases hw
  | wake k =>
    obtain ⟨hc, -, hwakes⟩ := hp
    rw [passed]
    split
    · next hlt => exact ⟨⟨hc, hlt, hwakes⟩, hr⟩
    · exact enterOwn_ok (.inl rfl) hr
  | body k =>
    obtain ⟨hc, -, hlt⟩ := hp
    rw [passed]
    split
    · next hlen => exact ⟨⟨hc, hlen, by simpa using hlt⟩, hr⟩
    · split
      · next ht => exact ⟨⟨hc, ht, by simpa using hlt ht⟩, hr⟩
      · trivial

theorem passed_dwelt_ok {i : Instr} {s : State} (hp : (Progress.point .dwell s).Ok i) : (passed i .dwell s.dwelt).Ok i := by
  obtain ⟨⟨hc, ht, hlt⟩, hr⟩ := hp
  obtain ⟨k, dir, h⟩ := exists_turnOf ht
  rw [passed_dwell h]
  exact loopHead_ok hc hr ht

/-- How many control points are left at most. -/
def Progress.left (i : Instr) : Progress → Nat
  | .point (.wake k) s => (wakeWrites s.cfg.lit).length - k + ((ownWrites i s).length + 5 * stepTotal i s)
  | .point (.body k) s => (ownWrites i s).length + 5 * (stepTotal i s - s.stepI.toNat) - k
  | .point .dwell s => 5 * (stepTotal i s - s.stepI.toNat)
  | .done _ => 0

/-- A run of a command (R12, R21): it completes where nothing is left; at a control point it is held, it is aborted by a NACK,
or it passes the point and runs on. -/
inductive Runs (i : Instr) : Progress → State → Prop where
  | done (s : State) : Runs i (.done s) (complete s)
  | held {p : Point} {s : State} (ok : (Progress.point p s).Ok i) (h : HeldBy p s) : Runs i (.point p s) (s.holdAt p)
  | nacked {p : Point} {s : State} {w : RegWrite} (ok : (Progress.point p s).Ok i) (hw : writeAt i p s = some w)
      (h : s.transport.head = .nack) : Runs i (.point p s) (raise (.transport w.reg) (s.answered w .nack))
  | answered {p : Point} {s t : State} {w : RegWrite} (ok : (Progress.point p s).Ok i) (hw : writeAt i p s = some w)
      (h : s.transport.head = .ok) (rest : Runs i (passed i p (s.answered w .ok)) t) : Runs i (.point p s) t
  | elapsed {s t : State} (ok : (Progress.point .dwell s).Ok i) (h : s.dwells.head = .elapses)
      (rest : Runs i (passed i .dwell s.dwelt) t) : Runs i (.point .dwell s) t

theorem loopHead_left_le (i : Instr) (s : State) :
    (loopHead i s).left i ≤ (ownWrites i s).length + 5 * (stepTotal i s - s.stepI.toNat) := by
  unfold loopHead
  split
  · exact Nat.sub_le _ _
  · exact Nat.zero_le _

theorem enterOwn_left_le (i : Instr) (s : State) :
    (enterOwn i s).left i ≤ (ownWrites i s).length + 5 * stepTotal i s := by
  unfold enterOwn
  split
  · next ht =>
    obtain ⟨k, dir, h⟩ := exists_turnOf ht
    refine (loopHead_left_le i _).trans ?_
    rw [ownWrites_turn h, ownWrites_turn h, stepWriteList_length, stepWriteList_length, stepTotal_turnStart]
    omega
  · split
    · simp only [Progress.left]
      omega
    · exact Nat.zero_le _

/-- A control point that is no write is a dwell (R21). -/
theorem eq_dwell_of_writeAt {i : Instr} {p : Point} {s : State} (hp : PointOk i p s) (h : writeAt i p s = none) :
    p = .dwell := by
  cases p with
  | wake k => exact absurd (List.getElem?_eq_none_iff.mp h) (not_le.mpr hp.2.1)
  | body k => exact absurd (List.getElem?_eq_none_iff.mp h) (not_le.mpr hp.2.1)
  | dwell => rfl

theorem left_answered {i : Instr} {p : Point} {s : State} {w : RegWrite} (hp : PointOk i p s) (hw : writeAt i p s = some w) :
    (passed i p (s.answered w .ok)).left i < (Progress.point p s).left i := by
  cases p with
  | dwell => cases hw
  | wake k =>
    obtain ⟨-, hk, -⟩ := hp
    rw [passed]
    split
    · simp only [Progress.left, answered_cfg, ownWrites_answered, stepTotal_answered]
      omega
    · have := enterOwn_left_le i (s.answered w .ok).markReady
      simp only [Progress.left, ownWrites_markReady, ownWrites_answered, stepTotal_markReady, stepTotal_answered] at this ⊢
      omega
  | body k =>
    obtain ⟨-, hk, hlt⟩ := hp
    rw [passed]
    split
    · simp only [Progress.left, answered_stepI, ownWrites_answered, stepTotal_answered]
      omega
    · split
      · simp only [Progress.left, answered_stepI, stepTotal_answered]
        omega
      · simp only [Progress.left]
        omega

theorem left_elapsed {i : Instr} {s : State} (hp : (Progress.point .dwell s).Ok i) :
    (passed i .dwell s.dwelt).left i < (Progress.point .dwell s).left i := by
  obtain ⟨⟨-, ht, hlt⟩, hr⟩ := hp
  obtain ⟨k, dir, h⟩ := exists_turnOf ht
  have hle := loopHead_left_le i (turnAdvance dir s.dwelt)
  rw [ownWrites_turn h, stepWriteList_length, stepTotal_turnAdvance, stepTotal_dwelt,
    turnAdvance_stepI_toNat (i := i) (s := s.dwelt) dir hr (by simpa using hlt), dwelt_stepI] at hle
  rw [passed_dwell h]
  refine hle.trans_lt ?_
  show _ < 5 * (stepTotal i s - s.stepI.toNat)
  omega

/-- Every command runs so, from every place at which it can stand. -/
theorem runs (i : Instr) (pr : Progress) (h : pr.Ok i) : Runs i pr (pr.run i) := by
  induction hn : pr.left i using Nat.strong_induction_on generalizing pr with
  | _ n ih =>
    subst hn
    cases pr with
    | done s => exact .done s
    | point p s =>
      have hp : PointOk i p s := h.1
      rw [Progress.run, Progress.flow]
      cases hw : writeAt i p s with
      | none =>
        obtain rfl := eq_dwell_of_writeAt hp hw
        cases hd : s.dwells.head with
        | holds => exact cmdFlow_holds hp hd ▸ .held h hd
        | elapses => exact cmdFlow_elapsed h.2 hp hd ▸ .elapsed h hd (ih _ (left_elapsed h) _ (passed_dwelt_ok h) rfl)
      | some w =>
        have held (hh : s.transport.head = .unanswered ∨ s.transport.head = .unissued) :
            Runs i (.point p s) (cmdFlow i p s).finish := by
          rw [cmdFlow_off hp hw (memWrite_held hh)]
          cases p with
          | wake k => exact .held h hh
          | body k => exact .held h hh
          | dwell => cases hw
        cases hh : s.transport.head with
        | ok => exact cmdFlow_answered hp hw hh ▸ .answered h hw hh (ih _ (left_answered hp hw) _ (passed_answered_ok h hw) rfl)
        | nack => exact cmdFlow_off hp hw (memWrite_nack hh) ▸ .nacked h hw hh
        | unanswered => exact held (.inl hh)
        | unissued => exact held (.inr hh)

/-- The run of an accepted command, from its first control point. -/
theorem runs_accepted (i : Instr) (s : State) (hr : s.cfg.lit.angleMin < s.cfg.lit.angleMax) :
    Runs i (firstPoint i s) (resume i (.wake 0) s) := by
  have := runs i _ (firstPoint_ok (i := i) hr)
  rwa [Progress.run, firstPoint_flow, ← resume_eq] at this

/-- The run of a command that goes on from its control point. -/
theorem runs_resumed {i : Instr} {p : Point} {s : State} (hp : PointOk i p s)
    (hr : s.cfg.lit.angleMin < s.cfg.lit.angleMax) : Runs i (.point p s) (resume i p s) := by
  rw [resume_eq]
  exact runs i (.point p s) ⟨hp, hr⟩

end Runs

end Sys2Proof.Machine

/-! The word of a decoded command is the word it was decoded from, so that SEQ keeps it (R21, R80). -/

namespace Sys2Proof

theorem chField_channelOf (w : Word) : chField (channelOf w) = chOf w := by
  simp [chField, channelOf]

theorem bit_dirOf (w : Word) : (dirOf w).bit = dOf w := by
  unfold dirOf
  split
  · next h => exact h.symm
  · next h => exact (BitVec.eq_zero_or_eq_one _).resolve_left h ▸ rfl

/-- A word that obeys a form is assembled from its opcode and from the fields that the form leaves free (R76). -/
theorem assemble_of_form {f : Form} {w : Word} (hv : f.violation w = none) {op ch : BitVec 4} {d : BitVec 1} {imm : Imm}
    (hop : opOf w = op) (hch : ch = chOf w ∨ f.channels = 1 ∧ ch = 0) (hd : d = dOf w ∨ f.hasDir = false ∧ d = 0)
    (himm : imm = immOf w ∨ f.hasImm = false ∧ imm = 0) : assemble op ch d imm = w := by
  obtain ⟨hr, hc, hd0, hi0⟩ := (violation_none_iff f w).mp hv
  have ech : ch = chOf w := hch.elim id fun ⟨h1, h0⟩ => BitVec.eq_of_toNat_eq (by simp [h0]; omega)
  have ed : d = dOf w := hd.elim id fun ⟨hf, h0⟩ => h0.trans (hd0 hf).symm
  have eimm : imm = immOf w := himm.elim id fun ⟨hf, h0⟩ => h0.trans (hi0 hf).symm
  rw [← hop, ech, ed, eimm, assemble_fields w hr]

/-- A word taken in a form is the encoding of its command, which spells the same fields. -/
theorem encode_of_accept {f : Form} {w : Word} {i j : Instr} (h : f.accept w i = .ok j) {op ch : BitVec 4} {d : BitVec 1}
    {imm : Imm} (he : encode i = assemble op ch d imm) (hop : opOf w = op) (hch : ch = chOf w ∨ f.channels = 1 ∧ ch = 0)
    (hd : d = dOf w ∨ f.hasDir = false ∧ d = 0) (himm : imm = immOf w ∨ f.hasImm = false ∧ imm = 0) : encode j = w := by
  obtain ⟨hv, rfl⟩ := (accept_ok_iff f w i j).mp h
  exact he.trans (assemble_of_form hv hop hch hd himm)

/-- Decoding loses nothing of a word (R78, R80). -/
theorem encode_of_decode {L : Literals} {w : Word} {i : Instr} (h : decode L w = .ok i) : encode i = w := by
  have op {n : Nat} (hn : (opOf w).toNat = n) : opOf w = BitVec.ofNat 4 n := by
    rw [← hn, BitVec.ofNat_toNat, BitVec.setWidth_eq]
  have ch := chField_channelOf w
  have dir := bit_dirOf w
  unfold decode at h
  split at h
  · cases h
  split at h
  · next hn => exact encode_of_accept h rfl (op hn) (.inr ⟨rfl, rfl⟩) (.inr ⟨rfl, rfl⟩) (.inr ⟨rfl, rfl⟩)
  · next hn => exact encode_of_accept h rfl (op hn) (.inl ch) (.inr ⟨rfl, rfl⟩) (.inl rfl)
  · next hn => exact encode_of_accept h rfl (op hn) (.inl ch) (.inr ⟨rfl, rfl⟩) (.inr ⟨rfl, rfl⟩)
  · next hn => exact encode_of_accept h rfl (op hn) (.inl ch) (.inl dir) (.inl rfl)
  · next hn => exact encode_of_accept h rfl (op hn) (.inl ch) (.inr ⟨rfl, rfl⟩) (.inr ⟨rfl, rfl⟩)
  · next hn => exact encode_of_accept h rfl (op hn) (.inl ch) (.inl dir) (.inl rfl)
  · next hn => exact encode_of_accept h rfl (op hn) (.inl ch) (.inl dir) (.inl rfl)
  · next hn => exact encode_of_accept h rfl (op hn) (.inr ⟨rfl, rfl⟩) (.inr ⟨rfl, rfl⟩) (.inl rfl)
  · next hn => exact encode_of_accept h rfl (op hn) (.inr ⟨rfl, rfl⟩) (.inr ⟨rfl, rfl⟩) (.inl rfl)
  · next hn => exact encode_of_accept h rfl (op hn) (.inl ch) (.inr ⟨rfl, rfl⟩) (.inl rfl)
  · next hn => exact encode_of_accept h rfl (op hn) (.inr ⟨rfl, rfl⟩) (.inr ⟨rfl, rfl⟩) (.inl rfl)
  · next hn => exact encode_of_accept h rfl (op hn) (.inr ⟨rfl, rfl⟩) (.inr ⟨rfl, rfl⟩) (.inr ⟨rfl, rfl⟩)
  · cases h

end Sys2Proof

/-! The invariant of every step (R21, R26): the registers stay in their bounds, and SEQ stands where its command can stand. -/

namespace Sys2Proof.Machine

section Registers

/-- The part of the invariant that speaks of the parameters and the configuration registers (R26). -/
def RegistersOk (s : State) : Prop :=
  SoundLiterals s.cfg.lit ∧
    (s.cfg.lit.multMin ≤ s.trimMult.toNat ∧ (s.trimMult.toNat : Int) ≤ s.cfg.lit.multMax) ∧
    (s.cfg.lit.zeroMin ≤ s.trimZero.toNat ∧ (s.trimZero.toNat : Int) ≤ s.cfg.lit.zeroMax) ∧
    s.spr1.toNat < 2 ^ s.cfg.lit.sprWidth ∧ s.spr2.toNat < 2 ^ s.cfg.lit.sprWidth

/-- The part of the invariant that speaks of SEQ (R21). -/
def PositionOk (s : State) : Prop :=
  ∀ w p, s.seq = .busy w p → ∃ i, decode s.cfg.lit w = .ok i ∧ PointOk i p s

theorem inv_iff (s : State) : s.Inv ↔ RegistersOk s ∧ PositionOk s := by
  simp only [State.Inv, RegistersOk, PositionOk, and_assoc]

theorem positionOk_of_idle {s : State} (h : s.seq = .idle) : PositionOk s := by
  intro w p hb
  rw [h] at hb
  cases hb

theorem byteOf_toNat {v : Int} (h : 0 ≤ v) (h' : v ≤ 255) : ((byteOf v).toNat : Int) = v := by
  rw [byteOf, BitVec.toNat_ofInt]
  omega

/-- A trim value clamped into bounds that fit a byte lies between them (R23, R24). -/
theorem byteOf_clamp_bounds {lo hi : Int} (h0 : 0 ≤ lo) (hle : lo ≤ hi) (h1 : hi ≤ 255) (v : Int) :
    lo ≤ ((byteOf (clamp lo hi v)).toNat : Int) ∧ ((byteOf (clamp lo hi v)).toNat : Int) ≤ hi := by
  obtain ⟨hlo, hhi⟩ := clamp_bounds hle v
  rw [byteOf_toNat (by omega) (by omega)]
  exact ⟨hlo, hhi⟩

theorem registersOk_mult {s : State} (v : Int) (h : RegistersOk s) :
    RegistersOk { s with trimMult := multValue s.cfg.lit v } := by
  obtain ⟨sound, -, hzero, hspr⟩ := h
  have ⟨⟨h0, hle, hle', h1⟩, _⟩ := sound
  exact ⟨sound, byteOf_clamp_bounds h0 (hle.trans hle') h1 v, hzero, hspr⟩

theorem registersOk_zero {s : State} (v : Int) (h : RegistersOk s) :
    RegistersOk { s with trimZero := zeroValue s.cfg.lit v } := by
  obtain ⟨sound, hmult, -, hspr⟩ := h
  have ⟨_, ⟨h0, hle, hle', h1⟩, _⟩ := sound
  exact ⟨sound, hmult, byteOf_clamp_bounds h0 (hle.trans hle') h1 v, hspr⟩

/-- SET_SPR stores SPR_WIDTH bits (R25, R154). -/
theorem sprValue_lt (L : Literals) (imm : Imm) : (sprValue L imm).toNat < 2 ^ L.sprWidth := by
  rw [sprValue, BitVec.toNat_ofNat]
  exact lt_of_le_of_lt (Nat.mod_le _ _) (Nat.mod_lt _ (Nat.two_pow_pos _))

theorem registersOk_spr {s : State} (k : Nat) (imm : Imm) (h : RegistersOk s) :
    RegistersOk (s.setSprReg k (sprValue s.cfg.lit imm)) := by
  obtain ⟨sound, hmult, hzero, h1, h2⟩ := h
  unfold State.setSprReg
  split
  · exact ⟨sound, hmult, hzero, sprValue_lt _ imm, h2⟩
  · exact ⟨sound, hmult, hzero, h1, sprValue_lt _ imm⟩

/-- The bounds speak of four registers and the literals only. -/
theorem registersOk_congr {s t : State} (hm : t.trimMult = s.trimMult) (hz : t.trimZero = s.trimZero)
    (h1 : t.spr1 = s.spr1) (h2 : t.spr2 = s.spr2) (hc : t.cfg.lit = s.cfg.lit) (h : RegistersOk s) : RegistersOk t := by
  rw [RegistersOk, hm, hz, h1, h2, hc]
  exact h

theorem registersOk_kept : Kept (fun _ => True) RegistersOk where
  answered _ _ _ _ _ h := h
  raise _ _ h := h
  complete _ h := h
  hold _ _ h := registersOk_congr (by simp) (by simp) (by simp) (by simp) (by simp) h
  dwelt _ h := h
  ready _ h := h
  start _ h := h
  advance _ _ h := h

theorem resume_registersOk (i : Instr) (p : Point) {s : State} (h : RegistersOk s) : RegistersOk (resume i p s) :=
  resume_kept registersOk_kept (fun _ _ _ _ => trivial) i (fun _ _ _ _ => trivial) (fun _ v => registersOk_mult v)
    (fun _ v => registersOk_zero v) (fun _ k imm => registersOk_spr k imm) p h

/-- A reset puts every register between its bounds (R39). -/
theorem resetBlock_registersOk (strap : Option DevAddr) {s : State} (h : RegistersOk s) :
    RegistersOk (resetBlock strap s) := by
  obtain ⟨sound, -⟩ := h
  have ⟨⟨_, hm, hm', _⟩, ⟨_, hz, hz', _⟩, hspr, _⟩ := sound
  exact ⟨sound, ⟨hm, hm'⟩, ⟨hz, hz'⟩, hspr, hspr⟩

theorem abandon_inv (strap : Option DevAddr) {s : State} (h : RegistersOk s) : (abandon strap s).Inv := by
  rw [inv_iff]
  obtain ⟨w, -, he⟩ | ⟨-, tr, dw, he⟩ := abandon_cases strap s <;> rw [he]
  · exact ⟨resetBlock_registersOk strap (s := s.answered w .lost) h, positionOk_of_idle rfl⟩
  · exact ⟨resetBlock_registersOk strap (s := { s with transport := tr, dwells := dw }) h, positionOk_of_idle rfl⟩

end Registers

section Position

theorem pointOk_holdAt {i : Instr} {p : Point} (q : Point) {s : State} (h : PointOk i p s) : PointOk i p (s.holdAt q) := by
  have un := unseen_holdAt q
  cases p with
  | wake k => simpa [PointOk] using h
  | body k => simpa [PointOk, un.ownWrites, un.stepTotal] using h
  | dwell => simpa [PointOk, un.stepTotal] using h

/-- A run that ends held has SEQ at a control point at which the command can stand, with the command's word (R21). -/
theorem Runs.position {i : Instr} {pr : Progress} {t : State} (h : Runs i pr t) {w w' : Word} {q q' : Point}
    (hseq : pr.state.seq = .busy w q) (ht : t.seq = .busy w' q') : w' = w ∧ PointOk i q' t := by
  induction h with
  | done s => cases ht
  | nacked ok hw hh => cases ht
  | @held p s ok hh =>
    cases (holdAt_busy w p q s hseq).symm.trans ht
    exact ⟨rfl, pointOk_holdAt _ ok.1⟩
  | answered ok hw hh rest ih => exact ih ((passed_silent ..).1.trans hseq) ht
  | elapsed ok hh rest ih => exact ih ((passed_silent ..).1.trans hseq) ht

/-- The command that runs from a place keeps the invariant. -/
theorem Runs.inv {i : Instr} {pr : Progress} {p q : Point} {s : State} {w : Word} (h : Runs i pr (resume i p s))
    (hpr : pr.state.seq = .busy w q) (hreg : RegistersOk s) (hd : decode s.cfg.lit w = .ok i) : (resume i p s).Inv := by
  refine (inv_iff _).mpr ⟨resume_registersOk i p hreg, fun w' q' ht => ?_⟩
  obtain ⟨rfl, hp⟩ := h.position hpr ht
  exact ⟨i, by rwa [resume_cfg], hp⟩

end Position

theorem SoundLiterals.angleRange {L : Literals} (h : SoundLiterals L) : L.angleMin < L.angleMax := h.2.2.2.1

/-- Every step keeps the invariant (R21, R26). -/
theorem step_inv {s t : State} (h : s.Inv) (hstep : step s = .next t) : t.Inv := by
  obtain ⟨hreg, hpos⟩ := (inv_iff s).mp h
  have hrange := hreg.1.angleRange
  obtain ⟨-, ⟨-, -, rfl⟩ | ⟨strap, rest, -, -, rfl⟩ | ⟨w, rest, i, -, -, hd, rfl⟩ | ⟨w, rest, e, -, -, -, rfl⟩ |
    ⟨w, p, hseq, -, rfl⟩ | ⟨w, p, strap, rest, -, -, rfl⟩⟩ := step_cases hstep
  · exact h
  · exact (inv_iff _).mpr ⟨resetBlock_registersOk strap (s := { s with host := rest }) hreg, positionOk_of_idle rfl⟩
  · obtain rfl := encode_of_decode hd
    exact (runs_accepted i (accept (encode i) { s with host := rest }) hrange).inv (firstPoint_silent ..).1 hreg hd
  · exact (inv_iff _).mpr ⟨hreg, positionOk_of_idle rfl⟩
  · obtain ⟨i, hd, hp⟩ := hpos w p hseq
    rw [resumeWord_legal p hd]
    exact (runs_resumed hp hrange).inv hseq hreg hd
  · exact abandon_inv strap (s := { s with host := rest }) hreg

theorem step_lit {s t : State} (h : step s = .next t) : t.cfg.lit = s.cfg.lit := by
  obtain hcfg | ⟨strap, rest, -, hcfg⟩ := step_cfg h <;> rw [hcfg]

/-- Settles O54: the registers are kept in their bounds by every primitive, and a run ends held only where its command can
stand. -/
theorem everyStepKeepsTheInvariant : Obligations.EveryStepKeepsTheInvariant := by
  intro s t h hstep
  have ht := step_inv h hstep
  refine ⟨ht, fun hstd => ?_⟩
  have hlit : t.cfg.lit = lit := (step_lit hstep).trans hstd
  obtain ⟨-, hmult, hzero, -⟩ := ht
  rw [hlit] at hmult hzero
  simp only [lit] at hmult hzero
  exact ⟨hlit, by omega, by omega, by omega, by omega⟩

/-- Settles O55: the reset values lie in their bounds, and SEQ is IDLE. -/
theorem resetSatisfiesTheInvariant : Obligations.ResetSatisfiesTheInvariant :=
  (inv_iff _).mpr ⟨⟨lit_sound, by decide, by decide, by decide⟩, positionOk_of_idle rfl⟩

end Sys2Proof.Machine

/-! CHIP_INIT is set only where the last write of the wake sequence was answered OK (R22, R101). -/

namespace Sys2Proof.Machine

/-- The events that a command emitted, from the log before it and the log after it. -/
theorem newEvents_of_log {s t : State} {es : List Event} (h : t.log = es ++ s.log) : newEvents s t = es.reverse := by
  simp [newEvents, State.trace, h]

/-- What a run has emitted stands before the events that were there. -/
theorem Runs.log {i : Instr} {pr : Progress} {t : State} (h : Runs i pr t) : pr.state.log <:+ t.log := by
  induction h with
  | done s => exact List.suffix_refl _
  | nacked ok hw hh => exact List.suffix_cons ..
  | held ok hh => rw [holdAt_log]; exact List.suffix_refl _
  | answered ok hw hh rest ih =>
    rw [(passed_silent ..).2.1] at ih
    exact (List.suffix_cons ..).trans ih
  | elapsed ok hh rest ih =>
    rw [(passed_silent ..).2.1] at ih
    exact (List.suffix_cons ..).trans ih

/-- The mode-1 write answered OK (R101). -/
def State.mode1Event (s : State) : Event := s.writeEvent ⟨s.cfg.lit.regMode1, s.cfg.lit.mode1Wake⟩ .ok

/-- The last write of the wake sequence is the mode-1 write (R101). -/
theorem wakeWrites_last {L : Literals} {k : Nat} {w : RegWrite} (hw : (wakeWrites L)[k]? = some w)
    (hk : ¬ k + 1 < (wakeWrites L).length) : w = ⟨L.regMode1, L.mode1Wake⟩ := by
  have hlen := length_of_getElem?_last hw hk
  have hlast : (wakeWrites L).getLast? = some w := by rw [List.getLast?_eq_getElem?, hlen]; exact hw
  rw [wakeWrites, List.getLast?_concat] at hlast
  exact (Option.some.inj hlast).symm

/-- A run that sets CHIP_INIT has emitted the mode-1 write, answered OK (R22). -/
theorem Runs.mode1_mem {i : Instr} {pr : Progress} {t : State} (h : Runs i pr t) (hc : pr.state.chipInit = false)
    (ht : t.chipInit = true) : ∃ es, t.log = es ++ pr.state.log ∧ pr.state.mode1Event ∈ es := by
  induction h with
  | done s => exact absurd (hc.symm.trans ht) (by decide)
  | nacked ok hw hh => exact absurd (hc.symm.trans ht) (by decide)
  | held ok hh => exact absurd (hc.symm.trans ((holdAt_chipInit ..).symm.trans ht)) (by decide)
  | elapsed ok hh rest ih => exact absurd (hc.symm.trans ok.1.1) (by decide)
  | @answered p s t w ok hw hh rest ih =>
    cases p with
    | dwell => cases hw
    | body k => exact absurd (hc.symm.trans ok.1.1) (by decide)
    | wake k =>
      by_cases hk : k + 1 < (wakeWrites s.cfg.lit).length
      · have hpass : passed i (.wake k) (s.answered w .ok) = .point (.wake (k + 1)) (s.answered w .ok) := if_pos hk
        rw [hpass] at ih
        obtain ⟨es, hlog, hmem⟩ := ih hc ht
        exact ⟨es ++ [s.writeEvent w .ok], by rw [hlog, List.append_assoc]; rfl, List.mem_append_left _ hmem⟩
      · obtain ⟨es, hlog⟩ := rest.log
        rw [(passed_silent ..).2.1] at hlog
        refine ⟨es ++ [s.writeEvent w .ok], by rw [← hlog, List.append_assoc]; rfl, List.mem_append_right _ ?_⟩
        rw [wakeWrites_last hw hk]
        exact List.mem_singleton_self _

theorem enterOwn_chipInit (i : Instr) (s : State) : (enterOwn i s).state.chipInit = s.chipInit := by
  unfold enterOwn loopHead
  split
  · split <;> rfl
  · split
    · rfl
    · exact effect_chipInit ..

theorem firstPoint_chipInit (i : Instr) (s : State) : (firstPoint i s).state.chipInit = s.chipInit := by
  unfold firstPoint
  split
  · rfl
  · exact enterOwn_chipInit ..

/-- No primitive of a command clears CHIP_INIT (R22). -/
theorem chipInit_kept : Kept (fun _ => True) fun s => s.chipInit = true where
  answered _ _ _ _ _ h := h
  raise _ _ h := h
  complete _ h := h
  hold _ _ h := (holdAt_chipInit ..).trans h
  dwelt _ h := h
  ready _ _ := rfl
  start _ h := h
  advance _ _ h := h

theorem resume_chipInit (i : Instr) (p : Point) {s : State} (h : s.chipInit = true) : (resume i p s).chipInit = true :=
  resume_kept chipInit_kept (fun _ _ _ _ => trivial) i (fun _ _ _ _ => trivial) (fun _ _ h => h) (fun _ _ h => h)
    (fun _ _ _ h => (setSprReg_chipInit ..).trans h) p h

theorem Runs.mode1_newEvents {i : Instr} {pr : Progress} {s t : State} (h : Runs i pr t) (hs : Silent s pr.state)
    (hc : pr.state.chipInit = false) (ht : t.chipInit = true) : s.mode1Event ∈ newEvents s t := by
  obtain ⟨-, hlog, hcfg⟩ := hs
  obtain ⟨es, hes, hmem⟩ := h.mode1_mem hc ht
  rw [State.mode1Event, State.writeEvent, hcfg] at hmem
  rw [newEvents_of_log (hes.trans (by rw [hlog]))]
  exact List.mem_reverse.mpr hmem

/-- Settles O13: no primitive clears CHIP_INIT, and a run that sets it passes the last wake point. -/
theorem chipInitIsSetOnlyByTheWakeSequence : Obligations.ChipInitIsSetOnlyByTheWakeSequence := by
  intro s t hinv hno hstep
  obtain ⟨hreg, hpos⟩ := (inv_iff s).mp hinv
  have hrange := hreg.1.angleRange
  have same (hc : s.chipInit = false) (hc' : s.chipInit = true) : False := absurd (hc.symm.trans hc') (by decide)
  obtain ⟨-, ⟨-, -, rfl⟩ | ⟨strap, rest, -, hh, -⟩ | ⟨w, rest, i, -, -, hd, rfl⟩ | ⟨w, rest, e, -, -, -, rfl⟩ |
    ⟨w, p, hseq, -, rfl⟩ | ⟨w, p, strap, rest, -, hh, -⟩⟩ := step_cases hstep
  · exact ⟨id, fun hc hc' => (same hc hc').elim⟩
  · exact absurd hh (hno strap rest)
  · let u := accept (encode i) { s with host := rest }
    exact ⟨fun hc => resume_chipInit i (.wake 0) (s := u) hc, fun hc hc' =>
      (runs_accepted i u hrange).mode1_newEvents (s := u) (firstPoint_silent ..) ((firstPoint_chipInit ..).trans hc) hc'⟩
  · exact ⟨id, fun hc hc' => (same hc hc').elim⟩
  · obtain ⟨i, hd, hp⟩ := hpos w p hseq
    rw [resumeWord_legal p hd]
    exact ⟨resume_chipInit i p, (runs_resumed hp hrange).mode1_newEvents ⟨rfl, rfl, rfl⟩⟩
  · exact absurd hh (hno strap rest)

end Sys2Proof.Machine

/-! A held command goes on where it stood (R21, R52): a run that ends held, replayed with the answers it had and any others
after them, is the resumption of its control point with those others. -/

namespace Sys2Proof.Machine

section Scripts
variable {α : Type} (sc : Script α) (n : Nat) (a : α)

/-- `n` times `a`, and then the script. -/
def Script.after : Script α := ⟨List.replicate n a ++ sc.listed, sc.rest⟩

theorem script_head_after : (sc.after (n + 1) a).head = a := rfl

end Scripts

/-- The scripts of the transport and of the dwell timer replaced. -/
def State.withScripts (tr : Script WriteFate) (dw : Script DwellFate) (s : State) : State :=
  { s with transport := tr, dwells := dw }

section Replay
variable (tr : Script WriteFate) (dw : Script DwellFate)

theorem effect_withScripts (i : Instr) (s : State) :
    effect i (s.withScripts tr dw) = (effect i s).withScripts tr dw :=
  effect_comm (g := State.withScripts tr dw) (fun _ => rfl) (fun _ _ => rfl) (fun _ _ => rfl) (fun _ _ => rfl)
    (fun _ _ => rfl) i s

theorem holdAt_withScripts (p : Point) (s : State) :
    (s.withScripts tr dw).holdAt p = (s.holdAt p).withScripts tr dw :=
  holdAt_comm (g := State.withScripts tr dw) (fun _ => rfl) (fun _ _ => rfl) p s

theorem ownWrites_withScripts (i : Instr) (s : State) : ownWrites i (s.withScripts tr dw) = ownWrites i s := by
  cases i <;> rfl

theorem stepTotal_withScripts (i : Instr) (s : State) : stepTotal i (s.withScripts tr dw) = stepTotal i s := by
  cases i <;> rfl

theorem writeAt_withScripts (i : Instr) (p : Point) (s : State) :
    writeAt i p (s.withScripts tr dw) = writeAt i p s := by
  cases p with
  | wake k => rfl
  | body k => rw [writeAt, ownWrites_withScripts, ← writeAt]
  | dwell => rfl

theorem pointOk_withScripts {i : Instr} {p : Point} {s : State} (h : PointOk i p s) :
    PointOk i p (s.withScripts tr dw) := by
  cases p with
  | wake k => exact h
  | body k => rwa [PointOk, ownWrites_withScripts, stepTotal_withScripts]
  | dwell => rwa [PointOk, stepTotal_withScripts]

theorem loopHead_withScripts (i : Instr) (s : State) :
    loopHead i (s.withScripts tr dw) = (loopHead i s).map (State.withScripts tr dw) := by
  rw [loopHead, loopHead, stepTotal_withScripts, apply_ite (Progress.map _)]
  rfl

theorem enterOwn_withScripts (i : Instr) (s : State) :
    enterOwn i (s.withScripts tr dw) = (enterOwn i s).map (State.withScripts tr dw) := by
  rw [enterOwn, enterOwn, ownWrites_withScripts, effect_withScripts, apply_ite (Progress.map _),
    apply_ite (Progress.map _), ← loopHead_withScripts]
  rfl

theorem firstPoint_withScripts (i : Instr) (s : State) :
    firstPoint i (s.withScripts tr dw) = (firstPoint i s).map (State.withScripts tr dw) := by
  rw [firstPoint, firstPoint, enterOwn_withScripts, apply_ite (Progress.map _)]
  rfl

/-- Where a command goes does not depend on what the environment does later. -/
theorem passed_withScripts (i : Instr) (p : Point) (s : State) :
    passed i p (s.withScripts tr dw) = (passed i p s).map (State.withScripts tr dw) := by
  cases p with
  | wake k =>
    rw [passed, passed, apply_ite (Progress.map _), ← enterOwn_withScripts]
    rfl
  | body k =>
    rw [passed, passed, ownWrites_withScripts, effect_withScripts, apply_ite (Progress.map _), apply_ite (Progress.map _)]
    rfl
  | dwell =>
    have hadv : advance i (s.withScripts tr dw) = (advance i s).withScripts tr dw := by
      unfold advance
      split <;> rfl
    rw [passed, passed, hadv, loopHead_withScripts]

end Replay

section Held

/-- A run that ends held at `q`, replayed: with the answers that it had and then any others, the step runs as the resumption at
`q` with those others. -/
theorem Runs.replay {i : Instr} {pr : Progress} {t : State} (h : Runs i pr t) {w w' : Word} {q q' : Point}
    (hseq : pr.state.seq = .busy w q) (ht : t.seq = .busy w' q') :
    ∃ es, t.log = es ++ pr.state.log ∧ ∀ (tr : Script WriteFate) (dw : Script DwellFate),
      (pr.map (State.withScripts (tr.after (es.countP Event.isWrite) .ok)
          (dw.after (es.countP Event.isDwell) .elapses))).run i =
        resume i q' (t.withScripts tr dw) := by
  induction h with
  | done s => cases ht
  | nacked ok hw hh => cases ht
  | @held p s ok hh =>
    cases (holdAt_busy w p q s hseq).symm.trans ht
    refine ⟨[], holdAt_log .., fun tr dw => ?_⟩
    rw [← holdAt_withScripts]
    exact (resume_eq i q' _).symm.trans ((unseen_holdAt q').resume i q' (s.withScripts tr dw)).symm
  | @answered p s t v ok hw hh rest ih =>
    obtain ⟨es, hlog, hreplay⟩ := ih ((passed_silent ..).1.trans hseq) ht
    rw [(passed_silent ..).2.1] at hlog
    refine ⟨es ++ [s.writeEvent v .ok], by rw [hlog, List.append_assoc]; rfl, fun tr dw => ?_⟩
    have hw' := (writeAt_withScripts (tr.after (es.countP Event.isWrite + 1) .ok)
      (dw.after (es.countP Event.isDwell) .elapses) i p s).trans hw
    have hstep := cmdFlow_answered (pointOk_withScripts _ _ ok.1) hw' (script_head_after ..)
    rw [← hreplay, ← passed_withScripts, List.countP_append, List.countP_append]
    exact congrArg Flow.finish hstep
  | @elapsed s t ok hh rest ih =>
    obtain ⟨es, hlog, hreplay⟩ := ih ((passed_silent ..).1.trans hseq) ht
    rw [(passed_silent ..).2.1] at hlog
    refine ⟨es ++ [.dwell s.cfg.dwellMs], by rw [hlog, List.append_assoc]; rfl, fun tr dw => ?_⟩
    have hstep := cmdFlow_elapsed (i := i) (s := s.withScripts (tr.after (es.countP Event.isWrite) .ok)
      (dw.after (es.countP Event.isDwell + 1) .elapses)) ok.2 (pointOk_withScripts _ _ ok.1) (script_head_after ..)
    rw [← hreplay, ← passed_withScripts, List.countP_append, List.countP_append]
    exact congrArg Flow.finish hstep

/-- The same of a whole command, from its acceptance (R21, R52). -/
theorem exec_replay {i : Instr} {s t : State} {w : Word} {p : Point} (hr : s.cfg.lit.angleMin < s.cfg.lit.angleMax)
    (h : exec i s = .next t) (ht : t.seq = .busy w p) (tr : Script WriteFate) (dw : Script DwellFate) :
    exec i (s.withScripts (tr.after ((newEvents s t).countP Event.isWrite) .ok)
        (dw.after ((newEvents s t).countP Event.isDwell) .elapses)) =
      .next (resume i p (t.withScripts tr dw)) := by
  rw [exec_eq_resume] at h
  cases h
  obtain ⟨hfseq, hflog, -⟩ := firstPoint_silent i (accept (encode i) s)
  obtain ⟨es, hlog, hreplay⟩ := (runs_accepted i (accept (encode i) s) hr).replay hfseq ht
  rw [newEvents_of_log (s := s) (hlog.trans (by rw [hflog]; rfl)), List.countP_reverse, List.countP_reverse, ← hreplay,
    ← firstPoint_withScripts, Progress.run, firstPoint_flow, ← resume_eq, exec_eq_resume]
  rfl

/-- Settles O51: the step of a BUSY block is the resumption, a held run replays, and what is held has ended nothing. -/
theorem heldCommandGoesOnWhereItStood : Obligations.HeldCommandGoesOnWhereItStood := by
  refine ⟨fun s w p i hshared hseq hd hno => ?_, fun i s t w p hr h ht => ?_, fun i s t h hbusy => ?_⟩
  · rw [step_busy hshared hseq hno, resumeWord_legal p hd]
  · refine ⟨?_, exec_replay hr h ht⟩
    rw [exec_eq_resume] at h
    cases h
    exact ((runs_accepted i (accept (encode i) s) hr).position (firstPoint_silent ..).1 ht).1
  · obtain h | ⟨hb, hno, hstep⟩ := h
    · rw [exec_eq_resume] at h
      cases h
      exact resume_held_keeps hbusy
    · obtain ⟨w, p, hseq⟩ := (busy_iff s).mp hb
      rw [step_busy (not_shared_of_step hstep) hseq hno] at hstep
      cases hstep
      cases hd : decode s.cfg.lit w with
      | ok i =>
        rw [resumeWord_legal p hd] at hbusy ⊢
        exact resume_held_keeps hbusy
      | error e =>
        rw [resumeWord_illegal p hd] at hbusy
        cases hbusy

end Held

end Sys2Proof.Machine

/-! The host-visible words (R29 to R36), the reset values (R39), and the step of an IDLE block (R36). -/

namespace Sys2Proof.Machine

section Words

/-- STATUS as the join of its fields, at its width field by field (R29). -/
theorem status_extract (s : State) (start len : Nat) :
    s.status.extractLsb' start len =
      BitVec.extractLsb' (n := 16 + 8 + 4 + 2 + 1 + 1) start len
        ((0 : BitVec 16) ++ s.failReg ++ (0 : BitVec 4) ++ s.result.code ++ bit s.chipInit ++ bit s.busy) := rfl

theorem cfg0_extract (s : State) (start len : Nat) :
    s.cfg0.extractLsb' start len =
      BitVec.extractLsb' (n := 16 + 8 + 8) start len ((0 : BitVec 16) ++ s.trimZero ++ s.trimMult) := rfl

open BitVec (extractLsb'_append_eq_of_le extractLsb'_append_eq_left extractLsb'_append_eq_right)

theorem status_busy (s : State) : s.status.extractLsb' 0 1 = bit s.busy := extractLsb'_append_eq_right

theorem status_init (s : State) : s.status.extractLsb' 1 1 = bit s.chipInit := by
  rw [status_extract, extractLsb'_append_eq_of_le (by decide)]
  exact extractLsb'_append_eq_right

theorem status_result (s : State) : s.status.extractLsb' 2 2 = s.result.code := by
  rw [status_extract, extractLsb'_append_eq_of_le (by decide), extractLsb'_append_eq_of_le (by decide)]
  exact extractLsb'_append_eq_right

theorem status_low_reserved (s : State) : s.status.extractLsb' 4 4 = 0 := by
  rw [status_extract, extractLsb'_append_eq_of_le (by decide), extractLsb'_append_eq_of_le (by decide),
    extractLsb'_append_eq_of_le (by decide)]
  exact extractLsb'_append_eq_right

theorem status_failReg (s : State) : s.status.extractLsb' 8 8 = s.failReg := by
  rw [status_extract, extractLsb'_append_eq_of_le (by decide), extractLsb'_append_eq_of_le (by decide),
    extractLsb'_append_eq_of_le (by decide), extractLsb'_append_eq_of_le (by decide)]
  exact extractLsb'_append_eq_right

theorem status_high_reserved (s : State) : s.status.extractLsb' 16 16 = 0 := by
  rw [status_extract, extractLsb'_append_eq_of_le (by decide), extractLsb'_append_eq_of_le (by decide),
    extractLsb'_append_eq_of_le (by decide), extractLsb'_append_eq_of_le (by decide)]
  exact extractLsb'_append_eq_left

theorem cfg0_trimMult (s : State) : s.cfg0.extractLsb' 0 8 = s.trimMult := extractLsb'_append_eq_right

theorem cfg0_trimZero (s : State) : s.cfg0.extractLsb' 8 8 = s.trimZero := by
  rw [cfg0_extract, extractLsb'_append_eq_of_le (by decide)]
  exact extractLsb'_append_eq_right

theorem cfg0_reserved (s : State) : s.cfg0.extractLsb' 16 16 = 0 := by
  rw [cfg0_extract, extractLsb'_append_eq_of_le (by decide)]
  exact extractLsb'_append_eq_left

theorem cfg1_spr1 (s : State) : s.cfg1.extractLsb' 0 16 = s.spr1 := extractLsb'_append_eq_right

theorem cfg1_spr2 (s : State) : s.cfg1.extractLsb' 16 16 = s.spr2 := extractLsb'_append_eq_left

/-- A field of one bit is the bit. -/
theorem getLsbD_of_extract {w : Word} {k : Nat} {b : Bool} (h : w.extractLsb' k 1 = bit b) : w.getLsbD k = b := by
  have hk := congrArg (fun v => v.getLsbD 0) h
  cases b <;> simpa [bit] using hk

/-- Settles O2: each field is read out of the join that STATUS is. -/
theorem statusWordFields : Obligations.StatusWordFields := by
  intro s
  have code {r : Result} (h : s.result = r) : s.status.extractLsb' 2 2 = r.code := h ▸ status_result s
  have ready : s.cmdReady = true ↔ s.seq = .idle := by
    rw [State.cmdReady, Bool.not_eq_true', ← Bool.not_eq_true, busy_iff_ne_idle, not_not]
  exact ⟨getLsbD_of_extract (status_busy s), getLsbD_of_extract (status_init s), code, code, code, code,
    status_low_reserved s, status_failReg s, status_high_reserved s, busy_iff_ne_idle s, ready⟩

/-- Settles O3: each register is read out of the join that CFG0 or CFG1 is. -/
theorem configurationWordFields : Obligations.ConfigurationWordFields := by
  exact ⟨fun s => ⟨cfg0_trimMult s, cfg0_trimZero s, cfg0_reserved s, cfg1_spr1 s, cfg1_spr2 s⟩, by decide, by decide⟩

end Words

section ResetValues

/-- STATUS after a reset is that of the reset state (R39). -/
theorem resetBlock_status (strap : Option DevAddr) (s : State) : (resetBlock strap s).status = State.reset.status := rfl

/-- Every reset leaves the values of R39's table. -/
theorem resetBlock_atReset (strap : Option DevAddr) (s : State) : (resetBlock strap s).AtReset :=
  ⟨rfl, rfl, rfl, rfl, rfl, rfl, rfl, rfl, (resetBlock_status strap s).trans (by decide)⟩

/-- Settles O1: both resets write R39's table, and this hardware's literals give its numbers. -/
theorem resetLeavesTheStatedValues : Obligations.ResetLeavesTheStatedValues := by
  refine ⟨⟨rfl, rfl, rfl, rfl, rfl, rfl, rfl, rfl, rfl⟩, rfl, fun _ => rfl, resetBlock_atReset, fun s hstd hreset => ?_⟩
  obtain ⟨-, -, hmult, hzero, hspr1, hspr2, -⟩ := hreset
  rw [hstd] at hmult hzero hspr1 hspr2
  rw [State.cfg0, State.cfg1, hmult, hzero, hspr1, hspr2]
  decide

end ResetValues

/-- Settles O4: an IDLE block that is not refused takes the word off the channel and executes what it decodes to. -/
theorem stepRunsTheDecodedCommand : Obligations.StepRunsTheDecodedCommand := by
  intro s w rest i hshared hseq hhost hd
  rw [step, sequencerStep, hshared, if_neg (by decide)]
  simp only [hseq, idleStep, hhost, acceptWord, hd]

end Sys2Proof.Machine

/-! The refusal of a shared device address (R63): it is the only refusal, and it comes before anything else a step does. -/

namespace Sys2Proof.Machine

theorem twoShare_iff (ds : List DevAddr) : twoShare ds = true ↔ ¬ ds.Nodup := by
  induction ds with
  | nil => simp [twoShare]
  | cons d ds ih =>
    rw [twoShare, Bool.or_eq_true, ih, List.contains_iff_mem, List.nodup_cons]
    tauto

theorem shared_iff (s : State) : s.shared = true ↔ ¬ (s.cfg.devAddr :: s.cfg.others).Nodup := twoShare_iff _

theorem step_of_shared {s : State} (h : s.shared = true) : step s = .refused .sharedDevAddr := by
  rw [step, sequencerStep, if_pos h]

theorem acceptWord_next (w : Word) (s : State) : ∃ t, acceptWord w s = .next t := by
  unfold acceptWord
  split
  · next i _ => exact ⟨_, exec_eq_resume i s⟩
  · exact ⟨_, rfl⟩

/-- An IDLE block answers every input of the host with a next state (R36, R190). -/
theorem idleStep_next (s : State) : ∃ t, idleStep s = .next t := by
  unfold idleStep
  split
  · exact ⟨_, rfl⟩
  · exact ⟨_, rfl⟩
  · exact acceptWord_next _ _

/-- No command and no reset refuses: `exec` gives every command its meaning. -/
theorem step_next_of_not_shared {s : State} (h : s.shared = false) : ∃ t, step s = .next t := by
  rw [step, sequencerStep, h, if_neg Bool.false_ne_true]
  split
  · exact idleStep_next s
  · exact ⟨_, rfl⟩

/-- Settles O6: two equal addresses are refused at once, and every other step answers a next state. -/
theorem sharedDeviceAddressIsRefused : Obligations.SharedDeviceAddressIsRefused := by
  intro s
  have next_of_nodup (h : (s.cfg.devAddr :: s.cfg.others).Nodup) : ∃ t, step s = .next t :=
    step_next_of_not_shared (Bool.eq_false_iff.mpr fun hs => (shared_iff s).mp hs h)
  refine ⟨⟨fun href hnodup => ?_, fun h => step_of_shared ((shared_iff s).mpr h)⟩, next_of_nodup⟩
  obtain ⟨t, ht⟩ := next_of_nodup hnodup
  cases href.symm.trans ht

end Sys2Proof.Machine

/-! A held command waits (R52, R204): the environment that holds it at its control point gives it back as it stands. -/

namespace Sys2Proof.Machine

theorem holdAt_self {s : State} {w : Word} {p : Point} (h : s.seq = .busy w p) : s.holdAt p = s := by
  rw [holdAt_eq, h]
  cases s
  cases h
  rfl

/-- A control point of a command is a write of it or its dwell (R21). -/
theorem exists_writeAt {i : Instr} {p : Point} {s : State} (hp : PointOk i p s) (hd : p ≠ .dwell) :
    ∃ w, writeAt i p s = some w :=
  Option.ne_none_iff_exists'.mp fun h => hd (eq_dwell_of_writeAt hp h)

/-- A command that goes on at a point where the environment still holds it stays there (R52, R180). -/
theorem cmdFlow_held {i : Instr} {p : Point} {s : State} (hp : PointOk i p s) (hh : HeldBy p s) :
    cmdFlow i p s = .off (s.holdAt p) := by
  cases p with
  | wake k =>
    obtain ⟨w, hw⟩ := exists_writeAt hp (by simp)
    exact cmdFlow_off hp hw (memWrite_held hh)
  | body k =>
    obtain ⟨w, hw⟩ := exists_writeAt hp (by simp)
    exact cmdFlow_off hp hw (memWrite_held hh)
  | dwell => exact cmdFlow_holds hp hh

/-- Settles O49: the resumption of a held command at its own control point is the state itself. -/
theorem heldCommandWaits : Obligations.HeldCommandWaits := by
  intro s w i p hshared hseq hd hp hh hno
  refine ⟨?_, (busy_iff s).mpr ⟨w, p, hseq⟩⟩
  rw [step_busy hshared hseq hno, resumeWord_legal p hd, resume_eq, cmdFlow_held hp hh, finish_off, holdAt_self hseq]

end Sys2Proof.Machine

/-! The registers that a command writes (R55, R125, R140, R159), said once for the map of the registers and for their images:
at this hardware's parameters each write of a command's own list goes to a register pair of a motor or a servo that the command
may write, the high byte within its bound. -/

namespace Sys2Proof.Machine

section Pairs

/-- A write to the register pair at `b`: of any low byte, or of a high byte up to `bound` (R57). -/
def RegWrite.OfPair (b bound : Byte) (w : RegWrite) : Prop := w.reg = b ∨ (w.reg = b + 1 ∧ w.val ≤ bound)

/-- A write to one of the two pairs of Motor(m), whose high bytes lie in 0..15 (R121). -/
def RegWrite.OfMotor (m : Nat) (w : RegWrite) : Prop := w.OfPair (motorBase lit m) 15 ∨ w.OfPair (motorPairB lit m) 15

/-- A write to the pair of Servo(n), whose high byte is 0 or 1 (R111). -/
def RegWrite.OfServo (n : Nat) (w : RegWrite) : Prop := w.OfPair (servoBase lit n) 1

/-- The high byte of a motor's speed up to SPEED_MAX (R121). -/
theorem motorHigh_le {v : Int} (h0 : 0 ≤ v) (h1 : v ≤ 100) : byteOf (fdiv (v * lit.speedScale) 256) ≤ 15 := by
  have hv : ((byteOf (fdiv (v * 40) 256)).toNat : Int) = v * 40 / 256 :=
    byteOf_toNat (by unfold fdiv; omega) (by unfold fdiv; omega)
  show (byteOf (fdiv (v * 40) 256)).toNat ≤ 15
  omega

theorem ofMotor_of_mem_motorDriveList {m : Nat} {dir : Dir} {v : Int} (h0 : 0 ≤ v) (h1 : v ≤ 100) {w : RegWrite}
    (hw : w ∈ motorDriveList lit m dir v) : w.OfMotor m := by
  have hhi := motorHigh_le h0 h1
  have hzero : (0 : Byte) ≤ 15 := by decide
  cases dir with
  | forward =>
    obtain rfl | rfl | rfl | rfl := by simpa [motorDriveList] using hw
    · exact .inl (.inl rfl)
    · exact .inl (.inr ⟨rfl, hhi⟩)
    · exact .inr (.inl rfl)
    · exact .inr (.inr ⟨rfl, hzero⟩)
  | reverse =>
    obtain rfl | rfl | rfl | rfl := by simpa [motorDriveList] using hw
    · exact .inr (.inl rfl)
    · exact .inr (.inr ⟨rfl, hhi⟩)
    · exact .inl (.inl rfl)
    · exact .inl (.inr ⟨rfl, hzero⟩)

/-- MotorZero is the drive at speed 0 (R121, R124). -/
theorem motorZeroList_eq (L : Literals) (m : Nat) : motorZeroList L m = motorDriveList L m .forward 0 := by
  simp [motorZeroList, motorDriveList, lowByte, imod, fdiv, byteOf]

theorem ofMotor_of_mem_motorZeroList {m : Nat} {w : RegWrite} (hw : w ∈ motorZeroList lit m) : w.OfMotor m :=
  ofMotor_of_mem_motorDriveList le_rfl (by decide) (motorZeroList_eq lit m ▸ hw)

theorem servoHigh_le (deg mult zero : Int) : (servoBytes deg mult zero).2 ≤ 1 := by
  show (if servoPwm deg mult zero > 255 then (1 : Byte) else 0) ≤ 1
  split <;> decide

theorem ofServo_of_mem_servoWriteList {n : Nat} {imm : Imm} {s : State} (hlit : s.cfg.lit = lit) {w : RegWrite}
    (hw : w ∈ servoWriteList n imm s) : w.OfServo n := by
  rw [servoWriteList, hlit] at hw
  obtain rfl | rfl := by simpa using hw
  · exact .inl rfl
  · exact .inr ⟨rfl, servoHigh_le ..⟩

theorem ofServo_of_mem_servoZeroList {n : Nat} {w : RegWrite} (hw : w ∈ servoZeroList lit n) : w.OfServo n := by
  have hzero : (0 : Byte) ≤ 1 := by decide
  obtain rfl | rfl := by simpa [servoZeroList] using hw
  · exact .inl rfl
  · exact .inr ⟨rfl, hzero⟩

end Pairs

section Channels

/-- The write belongs to a channel that exists, all of whose registers are the command's own. -/
def OwnChannelWrite (i : Instr) (w : RegWrite) : Prop :=
  (∃ m, motorExists lit m = true ∧ motorRegisters m ⊆ ownRegisters i ∧ w.OfMotor m) ∨
    ∃ n, servoExists lit n = true ∧ servoRegisters n ⊆ ownRegisters i ∧ w.OfServo n

/-- A step of a turn drives one of the stepper's two motors (R131). -/
theorem phaseMap_motor (p k : Nat) :
    (phaseMap p (firstMotor k) (secondMotor k)).1 = 2 * k - 1 ∨ (phaseMap p (firstMotor k) (secondMotor k)).1 = 2 * k := by
  unfold phaseMap
  split
  · exact .inl rfl
  · exact .inr rfl
  · exact .inl rfl
  · exact .inr rfl

theorem ownChannelWrite_of_mem_stepWriteList {i : Instr} {k : Nat} {s : State} (hlit : s.cfg.lit = lit)
    (hk : stepperExists lit k = true) (hi : ownRegisters i = motorRegisters (2 * k - 1) ++ motorRegisters (2 * k))
    {w : RegWrite} (hw : w ∈ stepWriteList k s) : OwnChannelWrite i w := by
  obtain ⟨h1, h2⟩ := stepperExists_iff.mp hk
  have h2 : k ≤ 2 := h2
  rw [stepWriteList, hlit] at hw
  have hof := ofMotor_of_mem_motorDriveList (by decide) (by decide) hw
  refine .inl ⟨_, ?_, ?_, hof⟩
  · refine motorExists_iff.mpr ?_
    show _ ∧ _ ≤ 4
    obtain h | h := phaseMap_motor s.phaseNumber k <;> rw [h] <;> omega
  · obtain h | h := phaseMap_motor s.phaseNumber k <;> rw [h, hi]
    · exact List.subset_append_left _ _
    · exact List.subset_append_right _ _

theorem ownChannelWrite_of_mem_allOffList {w : RegWrite} (hw : w ∈ allOffList lit) : OwnChannelWrite .allOff w := by
  have motors : ∀ j < 4, motorRegisters (j + 1) ⊆ allOffRegisters := by decide
  have servos : ∀ j < 8, servoRegisters (j + 1) ⊆ allOffRegisters := by decide
  obtain hw | hw := List.mem_append.mp hw
  · obtain ⟨j, hj, hw⟩ := List.mem_flatMap.mp hw
    have hj : j < 4 := List.mem_range.mp hj
    exact .inl ⟨j + 1, motorExists_iff.mpr ⟨by omega, hj⟩, motors j hj, ofMotor_of_mem_motorZeroList hw⟩
  · obtain ⟨j, hj, hw⟩ := List.mem_flatMap.mp hw
    have hj : j < 8 := List.mem_range.mp hj
    exact .inr ⟨j + 1, servoExists_iff.mpr ⟨by omega, hj⟩, servos j hj, ofServo_of_mem_servoZeroList hw⟩

/-- Every write of a command's own list, in every state, is one of its own channels'. -/
theorem ownChannelWrite_of_mem_ownWrites {i : Instr} {s : State} (hlit : s.cfg.lit = lit) (hwf : i.WellFormed lit)
    {w : RegWrite} (hw : w ∈ ownWrites i s) : OwnChannelWrite i w := by
  cases i with
  | servoWrite n imm => exact .inr ⟨n, hwf, List.Subset.refl _, ofServo_of_mem_servoWriteList hlit hw⟩
  | servoStop n => exact .inr ⟨n, hwf, List.Subset.refl _, ofServo_of_mem_servoZeroList (hlit ▸ hw)⟩
  | motorOn m dir imm =>
    obtain ⟨h0, h1⟩ := clamp_bounds (lo := 0) (hi := lit.speedMax) (by decide) (sext16 imm)
    rw [ownWrites, hlit] at hw
    exact .inl ⟨m, hwf, List.Subset.refl _, ofMotor_of_mem_motorDriveList h0 h1 hw⟩
  | motorOff m => exact .inl ⟨m, hwf, List.Subset.refl _, ofMotor_of_mem_motorZeroList (hlit ▸ hw)⟩
  | stepTurn k dir imm => exact ownChannelWrite_of_mem_stepWriteList hlit hwf rfl hw
  | stepAngle k dir imm => exact ownChannelWrite_of_mem_stepWriteList hlit hwf rfl hw
  | allOff => exact ownChannelWrite_of_mem_allOffList (hlit ▸ hw)
  | init | setMult _ | setZero _ | setSpr _ _ | reducePulse _ => cases hw

end Channels

section OwnRegisters

/-- A register some places above a base (R55). -/
theorem byteAddress_add {a b c : Nat} (h : a + b = c) : BitVec.ofNat 8 a + BitVec.ofNat 8 b = BitVec.ofNat 8 c :=
  h ▸ (BitVec.ofNat_add a b).symm

theorem RegWrite.OfServo.reg_mem {n : Nat} {w : RegWrite} (h : w.OfServo n) : w.reg ∈ servoRegisters n := by
  have high : servoBase lit n + 1 = BitVec.ofNat 8 (0x09 + 4 * (n - 1)) :=
    byteAddress_add (a := 0x08 + 4 * (n - 1)) (b := 1) (by omega)
  obtain h | ⟨h, -⟩ := h
  · exact List.mem_of_getElem? (i := 0) (congrArg some h.symm)
  · exact List.mem_of_getElem? (i := 1) (congrArg some (h.trans high).symm)

theorem RegWrite.OfMotor.reg_mem {m : Nat} {w : RegWrite} (h : w.OfMotor m) : w.reg ∈ motorRegisters m := by
  have highA : motorBase lit m + 1 = BitVec.ofNat 8 (0x29 + 8 * (m - 1)) :=
    byteAddress_add (a := 0x28 + 8 * (m - 1)) (b := 1) (by omega)
  have lowB : motorPairB lit m = BitVec.ofNat 8 (0x2C + 8 * (m - 1)) :=
    byteAddress_add (a := 0x28 + 8 * (m - 1)) (b := 4) (by omega)
  have highB : motorPairB lit m + 1 = BitVec.ofNat 8 (0x2D + 8 * (m - 1)) :=
    lowB ▸ byteAddress_add (a := 0x2C + 8 * (m - 1)) (b := 1) (by omega)
  obtain (h | ⟨h, -⟩) | (h | ⟨h, -⟩) := h
  · exact List.mem_of_getElem? (i := 0) (congrArg some h.symm)
  · exact List.mem_of_getElem? (i := 1) (congrArg some (h.trans highA).symm)
  · exact List.mem_of_getElem? (i := 2) (congrArg some (h.trans lowB).symm)
  · exact List.mem_of_getElem? (i := 3) (congrArg some (h.trans highB).symm)

/-- A command's own writes go to its own registers (R55, R125, R140, R159). -/
theorem reg_mem_ownRegisters {i : Instr} {s : State} (hlit : s.cfg.lit = lit) (hwf : i.WellFormed lit) {w : RegWrite}
    (hw : w ∈ ownWrites i s) : w.reg ∈ ownRegisters i := by
  obtain ⟨m, -, hsub, hof⟩ | ⟨n, -, hsub, hof⟩ := ownChannelWrite_of_mem_ownWrites hlit hwf hw
  · exact hsub hof.reg_mem
  · exact hsub hof.reg_mem

theorem reg_mem_wakeRegisters {w : RegWrite} (hw : w ∈ wakeWrites lit) : w.reg ∈ wakeRegisters := by
  have regs : (wakeWrites lit).map RegWrite.reg = wakeRegisters := by rw [wakeWrites_lit]; rfl
  exact regs ▸ List.mem_map_of_mem hw

end OwnRegisters

end Sys2Proof.Machine

/-! A command leaves the image of every register that it does not write (R58, R125, R140). -/

namespace Sys2Proof.Machine

theorem ext_congr {s t : State} (hlog : t.log = s.log) (hcfg : t.cfg = s.cfg) (r : Byte) : t.ext r = s.ext r := by
  rw [State.ext, hlog, hcfg, State.ext]

/-- The state has the parameters `c`, and `img` as the image of `r`. -/
def State.HasImage (c : Config) (r : Byte) (img : RegImage) (s : State) : Prop := s.cfg = c ∧ s.ext r = img

theorem hasImage_of_eq {c : Config} {r : Byte} {img : RegImage} {s t : State} (hcfg : t.cfg = s.cfg)
    (hext : t.ext r = s.ext r) (h : s.HasImage c r img) : t.HasImage c r img :=
  ⟨hcfg.trans h.1, hext.trans h.2⟩

/-- Where no write is to `r`, every primitive keeps the image of `r` (R58). -/
theorem hasImage_kept (c : Config) (r : Byte) (img : RegImage) : Kept (fun w => w.reg ≠ r) (State.HasImage c r img) where
  answered s _ _ hw _ h := hasImage_of_eq (s := s) rfl (ext_answered_other hw) h
  raise _ _ h := h
  complete _ h := h
  hold s p h := hasImage_of_eq (holdAt_cfg ..) (ext_holdAt p s r) h
  dwelt s h := hasImage_of_eq rfl (ext_dwelt s r) h
  ready _ h := h
  start _ h := h
  advance _ _ h := h

/-- What the primitives and its effect keep, a command's own statements keep. -/
theorem ownFlow_kept {W : RegWrite → Prop} {P : State → Prop} (kept : Kept W P) {i : Instr}
    (hown : ∀ s, P s → ∀ w ∈ ownWrites i s, W w) (heffect : ∀ s, P s → P (effect i s)) (p : Point) {s : State} (h : P s) :
    P (ownFlow i p s).state := by
  cases ht : turnOf i with
  | none =>
    rw [ownFlow_list ht]
    exact andThen_kept (bodyFrom_kept kept hown p h) heffect
  | some kd =>
    rw [ownFlow_turn ht]
    exact turnSteps_kept kept (fun u hu w hw => hown u hu w (ownWrites_turn ht u ▸ hw)) _ p h

/-- From its start a command keeps the image of `r` if neither the wake sequence, where it runs it, nor its own list writes
`r`. -/
theorem resume_hasImage {i : Instr} {s : State} {r : Byte} (hlit : s.cfg.lit = lit) (hwf : i.WellFormed lit)
    (hwake : s.chipInit = false ∧ wakes i s = true → r ∉ wakeRegisters) (hown : r ∉ ownRegisters i) :
    (resume i (.wake 0) s).HasImage s.cfg r (s.ext r) := by
  have kept := hasImage_kept s.cfg r (s.ext r)
  have lit_of {u : State} (hu : u.HasImage s.cfg r (s.ext r)) : u.cfg.lit = lit := by rw [hu.1, hlit]
  have own (u : State) (hu : u.HasImage s.cfg r (s.ext r)) : (ownFlow i (.wake 0) u).state.HasImage s.cfg r (s.ext r) :=
    ownFlow_kept kept
      (fun _ hv _ hw heq => hown (heq ▸ reg_mem_ownRegisters (lit_of hv) hwf hw))
      (fun v hv => hasImage_of_eq (effect_cfg i v) (ext_congr (effect_log i v) (effect_cfg i v) r) hv) _ hu
  rw [resume_eq]
  refine finish_kept kept ?_
  by_cases hrun : s.chipInit = false ∧ wakes i s = true
  · rw [cmdFlow, if_pos hrun.2]
    refine andThen_kept (ensureReady_kept kept (fun u hu w hw heq => hwake hrun ?_) _ ⟨rfl, rfl⟩) own
    exact heq ▸ reg_mem_wakeRegisters (lit_of hu ▸ hw)
  · rw [cmdFlow_ready 0 hrun]
    exact own s ⟨rfl, rfl⟩

/-- Settles O48: no write of the command, wake writes included where it makes them, goes to the register. -/
theorem commandsLeaveOtherRegisterImages : Obligations.CommandsLeaveOtherRegisterImages := by
  intro i s t r hstd hwf h hwake hown
  rw [exec_eq_resume] at h
  cases h
  refine (resume_hasImage (s := accept (encode i) s) hstd (hstd ▸ hwf) (fun ⟨hc, hw⟩ hr => ?_) hown).2
  obtain hready | ⟨hno, hset⟩ := hwake hr
  · exact absurd (hc.symm.trans hready) Bool.false_ne_true
  · simp [wakes, hno, hset] at hw

end Sys2Proof.Machine

/-! The channel number of a decoded command exists, since its word obeys its form (R72, R80). -/

namespace Sys2Proof

/-- A word taken in a form gives a command that is well formed wherever the form's channels exist. -/
theorem wellFormed_of_accept {L : Literals} {f : Form} {w : Word} {i j : Instr} (h : f.accept w i = .ok j)
    (hi : 1 ≤ channelOf w ∧ channelOf w ≤ f.channels → i.WellFormed L) : j.WellFormed L := by
  obtain ⟨hv, rfl⟩ := (accept_ok_iff f w i j).mp h
  obtain ⟨-, hch, -⟩ := (violation_none_iff f w).mp hv
  exact hi ⟨Nat.le_add_left 1 _, hch⟩

theorem wellFormed_of_decode {L : Literals} {w : Word} {i : Instr} (h : decode L w = .ok i) : i.WellFormed L := by
  unfold decode at h
  split at h
  · cases h
  split at h
  · exact wellFormed_of_accept h fun _ => rfl
  · exact wellFormed_of_accept h servoExists_iff.mpr
  · exact wellFormed_of_accept h servoExists_iff.mpr
  · exact wellFormed_of_accept h motorExists_iff.mpr
  · exact wellFormed_of_accept h motorExists_iff.mpr
  · exact wellFormed_of_accept h stepperExists_iff.mpr
  · exact wellFormed_of_accept h stepperExists_iff.mpr
  · exact wellFormed_of_accept h fun _ => rfl
  · exact wellFormed_of_accept h fun _ => rfl
  · exact wellFormed_of_accept h stepperExists_iff.mpr
  · exact wellFormed_of_accept h fun _ => rfl
  · exact wellFormed_of_accept h fun _ => rfl
  · cases h

end Sys2Proof

/-! Every write is in the register map (R55, R56): so are the writes of the wake sequence and of every command's own list, and no
step emits another, the LOST record of a reset included. -/

namespace Sys2Proof.Machine

section Map

/-- The register map allows the write (R55, R56). -/
def RegWrite.Mapped (w : RegWrite) : Prop := ¬ neverWritten w.reg ∧ valueAllowed w.reg w.val

theorem RegWrite.Mapped.event {w : RegWrite} (h : w.Mapped) (s : State) (q : Resp) :
    (s.writeEvent w q).Mapped s.cfg.devAddr.byte := ⟨rfl, h⟩

/-- The map takes every value up to `top` in register `r`. -/
def TakesUpTo (r top : Byte) : Prop := ¬ neverWritten r ∧ r ≠ 0x00 ∧ r ≠ 0xFE ∧ valueAllowed r top

/-- But for prescale and mode-1, whose bytes are fixed, what the map allows is bounds on a register's value. -/
theorem mapped_of_le {w : RegWrite} {top : Byte} (h : TakesUpTo w.reg top) (hle : w.val ≤ top) : w.Mapped := by
  obtain ⟨hnever, h0, hFE, -, -, hall, hservo, hmotor⟩ := h
  refine ⟨hnever, fun h => absurd h h0, fun h => absurd h hFE, fun h => ?_, fun h => BitVec.le_trans hle (hservo h),
    fun h => BitVec.le_trans hle (hmotor h)⟩
  rw [hall h] at hle
  exact BitVec.le_zero_iff.mp hle

/-- The map takes any low byte and a high byte up to `bound` in the register pair at `b`. -/
def PairTakesUpTo (b bound : Byte) : Prop := TakesUpTo b 0xFF ∧ TakesUpTo (b + 1) bound

theorem mapped_of_pair {b bound : Byte} (hpair : PairTakesUpTo b bound) {w : RegWrite} (h : w.OfPair b bound) :
    w.Mapped := by
  obtain ⟨hlow, hhigh⟩ := hpair
  obtain h | ⟨h, hle⟩ := h
  · exact mapped_of_le (top := 0xFF) (h ▸ hlow) (Nat.le_of_lt_succ w.val.isLt)
  · exact mapped_of_le (h ▸ hhigh) hle

theorem motorBase_takesUpTo : ∀ m ∈ List.range' 1 lit.nMotor, PairTakesUpTo (motorBase lit m) 15 := by
  unfold PairTakesUpTo TakesUpTo neverWritten valueAllowed
  decide

theorem motorPairB_takesUpTo : ∀ m ∈ List.range' 1 lit.nMotor, PairTakesUpTo (motorPairB lit m) 15 := by
  unfold PairTakesUpTo TakesUpTo neverWritten valueAllowed
  decide

theorem servoBase_takesUpTo : ∀ n ∈ List.range' 1 lit.nServo, PairTakesUpTo (servoBase lit n) 1 := by
  unfold PairTakesUpTo TakesUpTo neverWritten valueAllowed
  decide

theorem OwnChannelWrite.mapped {i : Instr} {w : RegWrite} (h : OwnChannelWrite i w) : w.Mapped := by
  obtain ⟨m, hm, -, hof⟩ | ⟨n, hn, -, hof⟩ := h
  · obtain ⟨h1, h4⟩ := motorExists_iff.mp hm
    have hmem : m ∈ List.range' 1 lit.nMotor := List.mem_range'_1.mpr ⟨h1, by omega⟩
    exact hof.elim (mapped_of_pair (motorBase_takesUpTo m hmem)) (mapped_of_pair (motorPairB_takesUpTo m hmem))
  · obtain ⟨h1, h8⟩ := servoExists_iff.mp hn
    exact mapped_of_pair (servoBase_takesUpTo n (List.mem_range'_1.mpr ⟨h1, by omega⟩)) hof

theorem wakeWrites_mapped : ∀ w ∈ wakeWrites lit, w.Mapped := by
  rw [wakeWrites_lit]
  unfold RegWrite.Mapped neverWritten valueAllowed
  decide

theorem ownWrites_mapped {i : Instr} {s : State} (hlit : s.cfg.lit = lit) (hwf : i.WellFormed lit) :
    ∀ w ∈ ownWrites i s, w.Mapped :=
  fun _ hw => (ownChannelWrite_of_mem_ownWrites hlit hwf hw).mapped

/-- The write that is outstanding is one of the wake sequence or of its command's own list (R37). -/
theorem outstanding_mapped {s : State} (hlit : s.cfg.lit = lit) {w : RegWrite} (h : s.outstanding = some w) : w.Mapped := by
  have hcur : s.currentWrite = some w := by
    unfold State.outstanding at h
    split at h
    · cases h
    · exact h
    · exact h
    · exact h
  unfold State.currentWrite at hcur
  split at hcur
  · cases hcur
  · next v p _ =>
    split at hcur
    · next i hd =>
      cases p with
      | wake k => exact wakeWrites_mapped w (hlit ▸ List.mem_of_getElem? hcur)
      | body k => exact ownWrites_mapped hlit (wellFormed_of_decode (hlit ▸ hd)) w (List.mem_of_getElem? hcur)
      | dwell => cases hcur
    · cases hcur

end Map

section Emitted

/-- Every event emitted from `s` to `t` is in the map of `s`'s chip. -/
def MappedSince (s t : State) : Prop := ∃ es, t.log = es ++ s.log ∧ ∀ e ∈ es, e.Mapped s.cfg.devAddr.byte

theorem MappedSince.of_log_eq {s u t : State} (hlog : t.log = u.log) (h : MappedSince s u) : MappedSince s t := by
  rwa [MappedSince, hlog]

theorem mappedSince_refl (s : State) : MappedSince s s := ⟨[], rfl, fun _ he => nomatch he⟩

theorem MappedSince.of_log_cons {s u t : State} {e : Event} (he : e.Mapped s.cfg.devAddr.byte) (hlog : t.log = e :: u.log)
    (h : MappedSince s u) : MappedSince s t := by
  obtain ⟨es, hes, hall⟩ := h
  exact ⟨e :: es, by rw [hlog, hes]; rfl, List.forall_mem_cons.mpr ⟨he, hall⟩⟩

theorem MappedSince.newEvents {s t : State} (h : MappedSince s t) : ∀ e ∈ newEvents s t, e.Mapped s.cfg.devAddr.byte := by
  obtain ⟨es, hes, hall⟩ := h
  rw [newEvents_of_log hes]
  exact fun e he => hall e (List.mem_reverse.mp he)

/-- Where every write is in the map, every primitive emits only events that are, under the parameters of `s`. -/
theorem mappedSince_kept (s : State) : Kept RegWrite.Mapped fun t => t.cfg = s.cfg ∧ MappedSince s t where
  answered u _ q hw _ h := ⟨h.1, h.2.of_log_cons (h.1 ▸ hw.event u q) (answered_log ..)⟩
  raise _ _ h := h
  complete _ h := h
  hold _ _ h := ⟨(holdAt_cfg ..).trans h.1, h.2.of_log_eq (holdAt_log ..)⟩
  dwelt _ h := ⟨h.1, h.2.of_log_cons (e := .dwell _) trivial (dwelt_log _)⟩
  ready _ h := h
  start _ h := h
  advance _ _ h := h

theorem resume_mappedSince {i : Instr} {s : State} (hlit : s.cfg.lit = lit) (hwf : i.WellFormed lit) (p : Point) :
    MappedSince s (resume i p s) := by
  have lit_of {t : State} (ht : t.cfg = s.cfg ∧ MappedSince s t) : t.cfg.lit = lit := by rw [ht.1, hlit]
  refine (resume_kept (mappedSince_kept s) (fun t ht => lit_of ht ▸ wakeWrites_mapped) i
    (fun t ht => ownWrites_mapped (lit_of ht) hwf) (fun _ _ h => h) (fun _ _ h => h) (fun _ _ _ h => ?_) p
    ⟨rfl, mappedSince_refl s⟩).2
  exact ⟨(setSprReg_cfg ..).trans h.1, h.2.of_log_eq (setSprReg_log ..)⟩

theorem resumeWord_mappedSince {s : State} (hlit : s.cfg.lit = lit) (w : Word) (p : Point) :
    MappedSince s (resumeWord w p s) := by
  cases hd : decode s.cfg.lit w with
  | ok i => exact resumeWord_legal p hd ▸ resume_mappedSince hlit (wellFormed_of_decode (hlit ▸ hd)) p
  | error e => exact resumeWord_illegal p hd ▸ mappedSince_refl s

/-- A reset emits the LOST record of the outstanding write, or nothing (R190). -/
theorem abandon_mappedSince {s : State} (hlit : s.cfg.lit = lit) (strap : Option DevAddr) :
    MappedSince s (abandon strap s) := by
  obtain ⟨w, ho, h⟩ | ⟨-, tr, dw, h⟩ := abandon_cases strap s
  · rw [h]
    exact (mappedSince_refl s).of_log_cons ((outstanding_mapped hlit ho).event s .lost) (resetBlock_log ..)
  · rw [h]
    exact (mappedSince_refl s).of_log_eq (resetBlock_log ..)

theorem step_mappedSince {s t : State} (hlit : s.cfg.lit = lit) (h : step s = .next t) : MappedSince s t := by
  obtain ⟨-, ⟨-, -, rfl⟩ | ⟨strap, rest, -, -, rfl⟩ | ⟨w, rest, i, -, -, hd, rfl⟩ | ⟨w, rest, e, -, -, -, rfl⟩ |
    ⟨w, p, -, -, rfl⟩ | ⟨w, p, strap, rest, -, -, rfl⟩⟩ := step_cases h
  · exact mappedSince_refl _
  · exact (mappedSince_refl s).of_log_eq (resetBlock_log ..)
  · exact resume_mappedSince (s := accept (encode i) { s with host := rest }) hlit (wellFormed_of_decode (hlit ▸ hd)) _
  · exact (mappedSince_refl s).of_log_eq ((raise_log ..).trans (accept_log ..))
  · exact resumeWord_mappedSince hlit w p
  · exact abandon_mappedSince (s := { s with host := rest }) hlit strap

/-- Settles O47: the strap has R5's four settings, and whichever case a step is, the events it emits are mapped. -/
theorem everyWriteIsInTheRegisterMap : Obligations.EveryWriteIsInTheRegisterMap :=
  ⟨⟨rfl, rfl, rfl, rfl⟩, fun _ _ hstd h => (step_mappedSince hstd h).newEvents⟩

end Emitted

end Sys2Proof.Machine

/-! A well-formed command's word decodes to that command: it obeys the form that its opcode selects, and its fields read back as
the command's own operands (R70 to R75, R80). -/

namespace Sys2Proof.Laws

/-- Every well-formed command's word carries its opcode and obeys its form (R76, R77, R80). -/
theorem encodesInForm (i : Instr) : EncodesInForm.Statement i :=
  match i with
  | .init => EncodesInForm.init
  | .servoWrite n imm => EncodesInForm.servoWrite n imm
  | .servoStop n => EncodesInForm.servoStop n
  | .motorOn m dir imm => EncodesInForm.motorOn m dir imm
  | .motorOff m => EncodesInForm.motorOff m
  | .stepTurn k dir imm => EncodesInForm.stepTurn k dir imm
  | .stepAngle k dir imm => EncodesInForm.stepAngle k dir imm
  | .setMult imm => EncodesInForm.setMult imm
  | .setZero imm => EncodesInForm.setZero imm
  | .setSpr k imm => EncodesInForm.setSpr k imm
  | .reducePulse imm => EncodesInForm.reducePulse imm
  | .allOff => EncodesInForm.allOff

/-- The channel that an assembled word selects is the one its CH field was made from (R72). -/
theorem channelOf_assemble {n c : Nat} (hn : 1 ≤ n ∧ n ≤ c) (hc : c ≤ 16) (op : BitVec 4) (d : BitVec 1) (imm : Imm) :
    channelOf (assemble op (chField n) d imm) = n := by
  rw [channelOf, chOf_assemble, chField_toNat hn.1 (hn.2.trans hc)]

@[simp] theorem dirOf_assemble (op ch : BitVec 4) (dir : Dir) (imm : Imm) :
    dirOf (assemble op ch dir.bit imm) = dir := by
  rw [dirOf, dOf_assemble, dir_bit_roundtrip]

/-- The decoder takes a well-formed command's word as that command, in the command's form (R76, R77, R80). -/
theorem decode_encode_eq_accept {L : Literals} {i : Instr} (hw : 32 ≤ L.cmdWidth)
    (hc : EncodesInForm.ChannelsFit L) (h : i.WellFormed L) : decode L (encode i) = (formOf L i).accept (encode i) i := by
  have hfit (w : Word) : ¬ 2 ^ L.cmdWidth ≤ w.toNat :=
    Nat.not_le_of_lt (w.isLt.trans_le (Nat.pow_le_pow_right Nat.two_pos hw))
  obtain ⟨hservo, hmotor, hstepper⟩ := hc
  cases i with
  | init | allOff => simp [decode, hfit, encode, formOf]
  | setMult imm | setZero imm | reducePulse imm => simp [decode, hfit, encode, formOf]
  | servoWrite n _ | servoStop n =>
    simp [decode, hfit, encode, formOf, channelOf_assemble (servoExists_iff.mp h) hservo]
  | motorOn m _ _ | motorOff m =>
    simp [decode, hfit, encode, formOf, channelOf_assemble (motorExists_iff.mp h) hmotor]
  | stepTurn k _ _ | stepAngle k _ _ | setSpr k _ =>
    simp [decode, hfit, encode, formOf, channelOf_assemble (stepperExists_iff.mp h) hstepper]

/-- Settles O8: the command's word is taken in the command's form, whose must-be-0 rules it obeys. -/
theorem decodeOfEncodeIsTheCommand : Obligations.DecodeOfEncodeIsTheCommand := by
  intro L i hservo hmotor hstepper hw h
  have hc : EncodesInForm.ChannelsFit L := ⟨hservo, hmotor, hstepper⟩
  exact (decode_encode_eq_accept hw hc h).trans ((accept_ok_iff ..).mpr ⟨(encodesInForm i L hc h).2, rfl⟩)

/-- Settles O9: a decoded word obeys its form, so its channel exists and no bit of it is lost. -/
theorem encodeOfDecodeIsTheWord : Obligations.EncodeOfDecodeIsTheWord :=
  fun _ _ _ h => ⟨wellFormed_of_decode h, encode_of_decode h⟩

end Sys2Proof.Laws

/-! The opcode map of this hardware: a row covers exactly the words whose OP is the row's and that obey the form of that OP, since
the row's mask is OP with the form's must-be-0 bits (R72 to R78). -/

namespace Sys2Proof.Laws

section Legality

/-- The operand form that an OP value selects; OP 0x0, 0xD, 0xE and 0xF select none (R71, R77). -/
def formAt (L : Literals) (op : BitVec 4) : Option Form :=
  match op.toNat with
  | 0x1 | 0xC => some .fn
  | 0x2 => some (.fsi L)
  | 0x3 => some (.fs L)
  | 0x4 => some (.fmdi L)
  | 0x5 => some (.fm L)
  | 0x6 | 0x7 => some (.ftdi L)
  | 0x8 | 0x9 | 0xB => some .fi
  | 0xA => some (.fti L)
  | _ => none

theorem accept_legal_iff (f : Form) (w : Word) (i : Instr) : (∃ j, f.accept w i = .ok j) ↔ f.violation w = none := by
  simp [accept_ok_iff]

/-- A word that fits CMD_WIDTH is legal exactly when its OP selects a form and it obeys that form (R71, R78). -/
theorem decode_legal_iff {L : Literals} {w : Word} (hw : w.toNat < 2 ^ L.cmdWidth) :
    (∃ i, decode L w = .ok i) ↔ ∃ f ∈ formAt L (opOf w), f.violation w = none := by
  rw [decode, if_neg (Nat.not_le_of_lt hw)]
  split <;> simp [accept_legal_iff, formAt, *]

end Legality

section Masks

/-- The mask keeps the bits that a form fixes: OP, RSV, the CH bits above its channels, and D and IMM where it has none
(R72, R73, R76). -/
abbrev MaskFixes (f : Form) (m : Word) : Prop :=
  opOf m = BitVec.allOnes 4 ∧ rsvOf m = BitVec.allOnes 7 ∧ chOf m = BitVec.ofNat 4 (16 - f.channels) ∧
    dOf m = (if f.hasDir then 0 else BitVec.allOnes 1) ∧ immOf m = (if f.hasImm then 0 else BitVec.allOnes 16)

/-- A CH field has none of the bits above a channel count that is a power of 2 exactly when it is below that count (R72). -/
theorem ch_and_eq_zero_iff : ∀ c ∈ [1, 2, 4, 8], ∀ ch : BitVec 4, ch &&& BitVec.ofNat 4 (16 - c) = 0 ↔ ch.toNat < c := by
  decide

/-- A field is masked out where the form has it, and must be 0 where it has not (R73). -/
theorem and_ite_eq_zero_iff {n : Nat} (b : Bool) (v : BitVec n) :
    v &&& (if b then 0 else BitVec.allOnes n) = 0 ↔ (b = false → v = 0) := by
  cases b <;> simp

/-- A word is an assembly exactly when its reserved bits are 0 and its fields are those (R70). -/
theorem eq_assemble_iff {w : Word} {op ch : BitVec 4} {d : BitVec 1} {imm : Imm} :
    w = assemble op ch d imm ↔ opOf w = op ∧ rsvOf w = 0 ∧ chOf w = ch ∧ dOf w = d ∧ immOf w = imm := by
  constructor
  · rintro rfl
    simp
  · rintro ⟨rfl, hr, rfl, rfl, rfl⟩
    exact (assemble_fields w hr).symm

/-- The AND of two words is taken field by field. -/
theorem fields_and (w m : Word) :
    opOf (w &&& m) = opOf w &&& opOf m ∧ rsvOf (w &&& m) = rsvOf w &&& rsvOf m ∧ chOf (w &&& m) = chOf w &&& chOf m ∧
      dOf (w &&& m) = dOf w &&& dOf m ∧ immOf (w &&& m) = immOf w &&& immOf m :=
  ⟨BitVec.extractLsb'_and, BitVec.extractLsb'_and, BitVec.extractLsb'_and, BitVec.extractLsb'_and, BitVec.extractLsb'_and⟩

/-- Under a form's mask a word shows an OP and nothing else exactly when it has that OP and obeys the form (R76, R77). -/
theorem and_mask_eq_iff {f : Form} {m : Word} (hm : MaskFixes f m) (hc : f.channels ∈ [1, 2, 4, 8]) (op : BitVec 4)
    (w : Word) : w &&& m = assemble op 0 0 0 ↔ opOf w = op ∧ f.violation w = none := by
  obtain ⟨hop, hrsv, hch, hd, himm⟩ := hm
  obtain ⟨eop, ersv, ech, ed, eimm⟩ := fields_and w m
  rw [eq_assemble_iff, violation_none_iff, eop, hop, ersv, hrsv, ech, hch, ed, hd, eimm, himm, BitVec.and_allOnes,
    BitVec.and_allOnes, ch_and_eq_zero_iff _ hc, and_ite_eq_zero_iff, and_ite_eq_zero_iff]

end Masks

section OpcodeMap

/-- Each row of the opcode map is the form of its own OP (R77). -/
theorem rows_form : ∀ r ∈ rows, ∃ f ∈ formAt Machine.lit (opOf r.pattern),
    MaskFixes f r.mask ∧ f.channels ∈ [1, 2, 4, 8] ∧ r.pattern = assemble (opOf r.pattern) 0 0 0 := by
  decide

/-- Every OP that selects a form has a row (R71, R77). -/
theorem row_of_formAt : ∀ op : BitVec 4, (formAt Machine.lit op).isSome → ∃ r ∈ rows, opOf r.pattern = op := by
  decide

/-- No two rows have one OP (R77). -/
theorem rows_op_nodup : (rows.map fun r => opOf r.pattern).Nodup := by
  decide

/-- A row covers the words of its OP that obey the form of that OP (R77, R78). -/
theorem covers_iff {r : Row} (hr : r ∈ rows) (w : Word) :
    r.covers w = true ↔ opOf w = opOf r.pattern ∧ ∃ f ∈ formAt Machine.lit (opOf w), f.violation w = none := by
  obtain ⟨f, hf, hm, hc, hp⟩ := rows_form r hr
  rw [Row.covers, beq_iff_eq, hp, and_mask_eq_iff hm hc, ← hp]
  refine and_congr_right fun hop => ?_
  rw [hop, Option.mem_def.mp hf]
  simp

/-- A word that a row covers lies in the row of its own OP, so every legal word has a row (R78). -/
theorem legal_iff_covered (w : Word) : (∃ i, decode Machine.lit w = .ok i) ↔ ∃ r ∈ rows, r.covers w = true := by
  rw [decode_legal_iff (show w.toNat < 2 ^ Machine.lit.cmdWidth from w.isLt)]
  constructor
  · rintro ⟨f, hf, hv⟩
    obtain ⟨r, hr, hop⟩ := row_of_formAt (opOf w) (Option.isSome_of_mem hf)
    exact ⟨r, hr, (covers_iff hr w).mpr ⟨hop.symm, f, hf, hv⟩⟩
  · rintro ⟨r, hr, h⟩
    exact ((covers_iff hr w).mp h).2

/-- Settles O7: a row covers the legal words of its OP, and the OP names the row. -/
theorem legalExactlyWhenARowMatches : Obligations.LegalExactlyWhenARowMatches := by
  refine fun w => ⟨legal_iff_covered w, fun r hr r' hr' h h' => ?_⟩
  have hop : opOf r.pattern = opOf r'.pattern := ((covers_iff hr w).mp h).1.symm.trans ((covers_iff hr' w).mp h').1
  exact List.inj_on_of_nodup_map rows_op_nodup hr hr' hop

end OpcodeMap

end Sys2Proof.Laws

/-! Chip initialisation (R100 to R105): a command that runs EnsureReady and makes no write of its own, the wake sequence that is
NACKed, and the log of the wake writes, to which a command adds nothing once CHIP_INIT is 1. -/

namespace Sys2Proof.Machine

section WakeOnly

theorem wakePart_cold {s : State} (h : s.chipInit = false) : wakePart s = wakeWrites s.cfg.lit := by
  simp [wakePart, h]

theorem wakePart_ready {s : State} (h : s.chipInit = true) : wakePart s = [] := by
  simp [wakePart, h]

/-- A wake write is left to make only while CHIP_INIT is 0 (R101). -/
theorem chipInit_false_of_wakePart {s : State} {vs us : List RegWrite} {v : RegWrite} (h : wakePart s = vs ++ v :: us) :
    s.chipInit = false := by
  refine Bool.eq_false_iff.mpr fun hc => ?_
  rw [wakePart_ready hc] at h
  simp at h

/-- A command that runs EnsureReady is EnsureReady and its own statements (R103). -/
theorem resume_of_wakes {i : Instr} {s : State} (h : wakes i s = true) (p : Point) :
    resume i p s = registerCommand (ownFlow i) p s := by
  rw [resume_eq, cmdFlow, if_pos h, registerCommand]

/-- A setter's register write commutes with the end of the command (R176). -/
theorem complete_effect (i : Instr) (s : State) : complete (effect i s) = effect i (complete s) :=
  (effect_comm (g := complete) (fun _ => rfl) (fun _ _ => rfl) (fun _ _ => rfl) (fun _ _ => rfl) (fun _ _ => rfl) i s).symm

/-- A command without writes of its own, where it runs EnsureReady and the wake writes are answered OK: the wake writes, then
the command's effect (R101, R176; 93 I5). -/
theorem exec_wake_only {i : Instr} {s : State} (hw : wakes i s = true) (hturn : turnOf i = none)
    (hown : ∀ u, ownWrites i u = []) (hok : s.transport.Yields (wakePart s).length .ok) :
    exec i s = .next (effect i (s.completedAfter (wakePart s))) := by
  let t := (accept (encode i) s).wrote (wakePart s)
  have hready : ensureReady (.wake 0) (accept (encode i) s) = .on t.markReady := ensureReady_ok hok
  have hflow : ownFlow i (.wake 0) t.markReady = .on (effect i t.markReady) := by
    rw [ownFlow_list hturn, bodyFrom_past (by simp [hown]), andThen_on]
  have hend : complete t.markReady = s.completedAfter (wakePart s) := by
    simpa using complete_wrote (encode i) s (wakePart s) []
  rw [exec_eq_resume, resume_of_wakes (s := accept (encode i) s) hw, registerCommand, hready, andThen_on, hflow, finish_on,
    complete_effect, hend]

/-- Settles O11: INIT is EnsureReady alone, which is nothing where CHIP_INIT is 1. -/
theorem initRunsTheWakeSequence : Obligations.InitRunsTheWakeSequence := by
  intro s
  have init_ok := exec_wake_only (i := .init) (s := s) rfl rfl fun _ => rfl
  refine ⟨fun hc hok => ?_, fun hc => ?_, fun hstd => ?_⟩
  · rw [wakePart_cold hc] at init_ok
    exact init_ok hok
  · rw [wakePart_ready hc] at init_ok
    rw [init_ok (yields_zero _ _), effect, State.completedAfter, wrote_nil, ← hc]
  · rw [hstd, wakeWrites_lit]

/-- Settles O12: the NACK ends the command in EnsureReady, before `CHIP_INIT <- 1`. -/
theorem wakeNackAbortsAndLeavesChipUninitialised : Obligations.WakeNackAbortsAndLeavesChipUninitialised := by
  intro i s vs us v hrun hpart hok hnack
  have hw : wakes i (accept (encode i) s) = true := Bool.or_eq_true_iff.mpr hrun
  refine ⟨?_, chipInit_false_of_wakePart hpart⟩
  rw [exec_eq_resume, resume_of_wakes hw, command_wake_nack hpart hok hnack]

end WakeOnly

section WakeLog

/-- The event is a write to a register of the wake sequence. -/
def Event.isWakeWrite (e : Event) : Bool := e.register?.any (· ∈ wakeRegisters)

/-- The writes to registers of the wake sequence among the events of the log. -/
def State.wakeLog (s : State) : List Event := s.log.filter Event.isWakeWrite

theorem wakeLog_of_log_eq {s t : State} (h : t.log = s.log) : t.wakeLog = s.wakeLog := by
  rw [State.wakeLog, h, State.wakeLog]

theorem wakeLog_of_log_cons {s t : State} {e : Event} (h : t.log = e :: s.log) (he : e.isWakeWrite = false) :
    t.wakeLog = s.wakeLog := by
  rw [State.wakeLog, h, List.filter_cons_of_neg (by simp [he]), State.wakeLog]

theorem isWakeWrite_writeEvent {w : RegWrite} (h : w.reg ∉ wakeRegisters) (s : State) (q : Resp) :
    (s.writeEvent w q).isWakeWrite = false := decide_eq_false h

/-- Writes to other registers leave the log of the wake writes as it is. -/
theorem wakeLog_kept (c : Config) (l : List Event) :
    Kept (fun w => w.reg ∉ wakeRegisters) fun s => s.cfg = c ∧ s.wakeLog = l where
  answered s _ q hw _ h := ⟨h.1, (wakeLog_of_log_cons (answered_log ..) (isWakeWrite_writeEvent hw s q)).trans h.2⟩
  raise _ _ h := h
  complete _ h := h
  hold _ _ h := ⟨(holdAt_cfg ..).trans h.1, (wakeLog_of_log_eq (holdAt_log ..)).trans h.2⟩
  dwelt _ h := ⟨h.1, (wakeLog_of_log_cons (dwelt_log _) rfl).trans h.2⟩
  ready _ h := h
  start _ h := h
  advance _ _ h := h

theorem motorRegisters_not_wake : ∀ m ∈ List.range' 1 lit.nMotor, ∀ r ∈ motorRegisters m, r ∉ wakeRegisters := by
  decide

theorem servoRegisters_not_wake : ∀ n ∈ List.range' 1 lit.nServo, ∀ r ∈ servoRegisters n, r ∉ wakeRegisters := by
  decide

/-- No register of a channel is one of the wake sequence (R55). -/
theorem OwnChannelWrite.not_wake {i : Instr} {w : RegWrite} (h : OwnChannelWrite i w) : w.reg ∉ wakeRegisters := by
  obtain ⟨m, hm, -, hof⟩ | ⟨n, hn, -, hof⟩ := h
  · obtain ⟨h1, h4⟩ := motorExists_iff.mp hm
    exact motorRegisters_not_wake m (List.mem_range'_1.mpr ⟨h1, by omega⟩) _ hof.reg_mem
  · obtain ⟨h1, h8⟩ := servoExists_iff.mp hn
    exact servoRegisters_not_wake n (List.mem_range'_1.mpr ⟨h1, by omega⟩) _ hof.reg_mem

/-- Once CHIP_INIT is 1 a command adds no wake write to the log, whatever the transport answers (R105). -/
theorem resume_wakeLog {i : Instr} {s : State} (hlit : s.cfg.lit = lit) (hwf : i.WellFormed lit) (hc : s.chipInit = true) :
    (resume i (.wake 0) s).wakeLog = s.wakeLog := by
  have kept := wakeLog_kept s.cfg s.wakeLog
  have hready : ¬ (s.chipInit = false ∧ wakes i s = true) := by simp [hc]
  rw [resume_eq, cmdFlow_ready 0 hready]
  refine (finish_kept kept (ownFlow_kept kept (fun u hu w hw => ?_) (fun u hu => ?_) _ ⟨rfl, rfl⟩)).2
  · exact (ownChannelWrite_of_mem_ownWrites (by rw [hu.1, hlit]) hwf hw).not_wake
  · exact ⟨(effect_cfg i u).trans hu.1, (wakeLog_of_log_eq (effect_log i u)).trans hu.2⟩

/-- Where the log of the wake writes is unchanged, no new event is one. -/
theorem newEvents_not_wake {s t : State} (hlog : s.log <:+ t.log) (hwake : t.wakeLog = s.wakeLog) :
    ∀ e ∈ newEvents s t, e.isWakeWrite = false := by
  obtain ⟨es, hes⟩ := hlog
  have hnone : es.filter Event.isWakeWrite = [] := by
    rwa [State.wakeLog, ← hes, List.filter_append, State.wakeLog, List.append_left_eq_self] at hwake
  rw [newEvents_of_log hes.symm]
  exact fun e he => by simpa using List.filter_eq_nil_iff.mp hnone e (List.mem_reverse.mp he)

/-- Settles O14: EnsureReady does nothing, and the command's own writes go to its channels' registers. -/
theorem noWakeWriteOnceInitialised : Obligations.NoWakeWriteOnceInitialised := by
  intro i s t hstd hwf hc h e he r hr
  rw [exec_eq_resume] at h
  cases h
  let u := accept (encode i) s
  have hlog : s.log <:+ (resume i (.wake 0) u).log := resume_traceFrom i _ (List.suffix_refl s.log)
  have hno := newEvents_not_wake hlog (resume_wakeLog (s := u) hstd (hstd ▸ hwf) hc) e he
  simpa [Event.isWakeWrite, hr] using hno

end WakeLog

section Setters

/-- R10's truncating division is the library's. -/
theorem tdiv_eq (a b : Int) : tdiv a b = a.tdiv b := by
  have magnitudes (m n : Nat) : (m : Int).sign * (n : Int).sign * ((m : Int) / n) = (m : Int) / n := by
    cases m with
    | zero => simp
    | succ m =>
      cases n with
      | zero => simp
      | succ n => simp
  obtain ⟨m, rfl | rfl⟩ := a.eq_nat_or_neg <;> obtain ⟨n, rfl | rfl⟩ := b.eq_nat_or_neg <;>
    simp [tdiv, fdiv, magnitudes]

/-- A value not above the lower bound is stored as the bound (R150). -/
theorem multValue_of_le {L : Literals} {v : Int} (hv : v ≤ L.multMin) (hL : L.multMin ≤ L.multMax) :
    multValue L v = byteOf L.multMin := by
  have hclamp : clamp L.multMin L.multMax v = L.multMin := by
    unfold clamp
    omega
  rw [multValue, hclamp]

/-- With its percentage clamped, REDUCE_PULSE stores 113 whatever its operand (R157). -/
theorem reducedMult_clamped (imm : Imm) : reducedMult lit true imm = 113 := by
  obtain ⟨-, hpct⟩ := clamp_bounds (lo := 0) (hi := 50) (by decide) (sext16 imm)
  have hle : tdiv (226 * clamp 0 50 (sext16 imm)) 100 ≤ 113 :=
    roundDiv_le .trunc (by decide) (by decide) (by omega)
  exact multValue_of_le (L := lit) hle (by decide)

/-- SPR_WIDTH is the whole of IMM at this hardware's parameters (R154). -/
theorem sprValue_lit (imm : Imm) : sprValue lit imm = imm := by
  have h : imm.toNat % 2 ^ 16 = imm.toNat := Nat.mod_eq_of_lt imm.isLt
  show BitVec.ofNat 16 (imm.toNat % 2 ^ 16) = imm
  rw [h, BitVec.ofNat_toNat, BitVec.setWidth_eq]

/-- Settles O41: each setter is EnsureReady and its own register's value, which is the spec's at this hardware's parameters. -/
theorem settersInitialiseWhereTheParameterSaysSo : Obligations.SettersInitialiseWhereTheParameterSaysSo := by
  intro imm s hstd hset hok
  have hlit : (s.completedAfter (wakePart s)).cfg.lit = lit := hstd
  have setter (i : Instr) := exec_wake_only (i := i) (s := s) (by simp [wakes, hset])
  refine ⟨?_, ?_, ?_, ?_, fun hp => ?_, fun hp => ?_⟩
  · rw [setter (.setMult imm) rfl (fun _ => rfl) hok, effect, hlit]
    rfl
  · rw [setter (.setZero imm) rfl (fun _ => rfl) hok, effect, hlit]
    rfl
  · rw [setter (.setSpr 1 imm) rfl (fun _ => rfl) hok, effect, hlit, sprValue_lit]
    rfl
  · rw [setter (.setSpr 2 imm) rfl (fun _ => rfl) hok, effect, hlit, sprValue_lit]
    rfl
  · have hclamp : (s.completedAfter (wakePart s)).cfg.pctClamp = true := hp
    rw [setter (.reducePulse imm) rfl (fun _ => rfl) hok, effect, hlit, hclamp, reducedMult_clamped]
  · have hclamp : (s.completedAfter (wakePart s)).cfg.pctClamp = false := hp
    rw [setter (.reducePulse imm) rfl (fun _ => rfl) hok, effect, hlit, hclamp, reducedMult, tdiv_eq]
    rfl

end Setters

end Sys2Proof.Machine

/-! The servo PWM register encoder (R110 to R115): the two bytes of a pwm value as numbers, the bounds of pwm over the operand
ranges of R111, and the two servo commands with every write answered OK. -/

namespace Sys2Proof.Machine

section ServoBytes

/-- R10's remainder is the library's. -/
theorem imod_eq_emod (a b : Int) : imod a b = a % b := (Int.emod_def a b).symm

theorem lowByte_eq (v : Int) : lowByte v = byteOf (v % 256) := by
  rw [lowByte, imod_eq_emod]

theorem lowByte_toNat (v : Int) : ((lowByte v).toNat : Int) = v % 256 := by
  rw [lowByte_eq, byteOf_toNat (by omega) (by omega)]

theorem servoBytes_low_toNat (deg mult zero : Int) :
    ((servoBytes deg mult zero).1.toNat : Int) = servoPwm deg mult zero % 256 := lowByte_toNat _

theorem servoBytes_high_toNat (deg mult zero : Int) :
    (servoBytes deg mult zero).2.toNat = if servoPwm deg mult zero > 255 then 1 else 0 := by
  rw [servoBytes, apply_ite BitVec.toNat]
  rfl

/-- The pwm of an angle above the zero offset lies in 0..406 (R111). -/
theorem servoSpan_bounds {deg mult : Int} (hdeg0 : 0 ≤ deg) (hdeg : deg ≤ 180) (hmult0 : 0 ≤ mult) (hmult : mult ≤ 226) :
    0 ≤ deg * mult / 100 ∧ deg * mult / 100 ≤ 406 := by
  have hlow : 0 ≤ deg * mult := Int.mul_nonneg hdeg0 hmult0
  have hhigh : deg * mult ≤ 180 * 226 := Int.mul_le_mul hdeg hmult hmult0 (by decide)
  omega

/-- Settles O16: pwm is the zero offset and a span in 0..406, and the bytes are its remainder and its overflow bit. -/
theorem servoBytesFormulaAndBounds : Obligations.ServoBytesFormulaAndBounds := by
  intro deg mult zero hdeg0 hdeg hmult0 hmult hzero0 hzero pwm
  obtain ⟨hspan0, hspan⟩ := servoSpan_bounds hdeg0 hdeg (by omega) hmult
  exact ⟨by omega, by omega, servoBytes_low_toNat .., servoBytes_high_toNat ..⟩

/-- Settles O17: with pwm at most 610 the overflow bit loses 256 exactly from 512 on, and the thresholds are the formula's. -/
theorem servoNineBitWrap : Obligations.ServoNineBitWrap := by
  intro deg mult zero hdeg0 hdeg hmult0 hmult hzero0 hzero pwm lo hi
  obtain ⟨hspan0, hspan⟩ := servoSpan_bounds hdeg0 hdeg (by omega) hmult
  obtain ⟨hpwm0, hpwm, hlo, hhi⟩ := servoBytesFormulaAndBounds deg mult zero hdeg0 hdeg hmult0 hmult hzero0 hzero
  have hlo : lo = pwm % 256 := hlo
  have hhi : hi = if pwm > 255 then 1 else 0 :=
    (congrArg Nat.cast hhi).trans (Nat.cast_ite ..)
  refine ⟨by omega, fun hwrap => ?_, by omega, by omega, ?_, ?_⟩
  · rw [if_pos (by omega)] at hhi
    omega
  · rintro rfl rfl
    omega
  · rintro rfl rfl
    omega

end ServoBytes

section ServoCommands

/-- SERVO_WRITE's two writes from the operand and the trim (R110, R111). -/
theorem servoWriteList_eq (n : Nat) (imm : Imm) (s : State) :
    let pwm := servoPwm (servoAngle s.cfg.lit imm) s.trimMult.toNat s.trimZero.toNat
    servoWriteList n imm s =
      [⟨servoBase s.cfg.lit n, byteOf (pwm % 256)⟩, ⟨servoBase s.cfg.lit n + 1, if pwm > 255 then 1 else 0⟩] := by
  rw [servoWriteList, servoBytes, lowByte_eq]

/-- Settles O15: the wake writes leave the trim as it was, so the command's own list is that of the state before it. -/
theorem servoWriteSendsTheEncodedAngle : Obligations.ServoWriteSendsTheEncodedAngle := by
  intro n imm s _ _ hok
  exact congrArg Host.Outcome.next (command_completes (servoWriteList_eq n imm _) hok)

/-- Settles O18: the command's own list is ServoZero's in every state. -/
theorem servoStopZeroesThePair : Obligations.ServoStopZeroesThePair := by
  intro n s _ _ hok
  exact congrArg Host.Outcome.next (command_completes (list := fun t => servoZeroList t.cfg.lit n) rfl hok)

end ServoCommands

end Sys2Proof.Machine

/-! What a register-writing command that ended OK has done (R58, R174, R176): the transport answered every write of it OK, and the
image of a register that it wrote once is the value written. -/

namespace Sys2Proof.Machine

section EndedOk

/-- A list of writes goes on only where every write was answered OK (R53). -/
theorem memWrites_on {pt : Nat → Point} {k : Nat} {ws : List RegWrite} {s u : State} (h : memWrites pt k ws s = .on u) :
    s.transport.Yields ws.length .ok := by
  obtain ⟨hy, -⟩ | ⟨vs, w, us, -, -, ⟨-, hoff⟩ | ⟨-, hoff⟩⟩ := memWrites_cases pt ws k s
  · exact hy
  · cases hoff.symm.trans h
  · cases hoff.symm.trans h

/-- EnsureReady goes on only where every wake write was answered OK (R101, R102). -/
theorem ensureReady_on {s u : State} (h : ensureReady (.wake 0) s = .on u) :
    s.transport.Yields (wakePart s).length .ok ∧ u = (s.wrote (wakePart s)).markReady := by
  obtain ⟨hy, hon⟩ | ⟨vs, w, us, -, -, -, ⟨-, hoff⟩ | ⟨-, hoff⟩⟩ := ensureReady_cases s
  · exact ⟨hy, Flow.on.inj (h.symm.trans hon)⟩
  · cases hoff.symm.trans h
  · cases hoff.symm.trans h

/-- A command that ended OK was neither aborted nor held (R174, R176). -/
theorem Stretch.on_of_ok {s : State} {f : Flow} (h : Stretch s f) (hs : s.seq ≠ .idle) (hidle : f.finish.seq = .idle)
    (hok : f.finish.result = .ok) : ∃ u, f = .on u := by
  cases h with
  | on h => exact ⟨_, rfl⟩
  | nacked w h => cases hok
  | @held u p h =>
    cases hseq : s.seq with
    | idle => exact absurd hseq hs
    | busy w q =>
      rw [finish_off, holdAt_busy w p q u (h.seq.trans hseq)] at hidle
      cases hidle

/-- Only a command whose writes were all answered OK ends OK, so it ends as `command_completes` says. -/
theorem command_ok {list : State → List RegWrite} {w : Word} {s : State} {ws : List RegWrite}
    (hlist : list ((accept w s).wrote (wakePart s)).markReady = ws)
    (hidle : (registerCommand (bodyFrom list) (.wake 0) (accept w s)).seq = .idle)
    (hok : (registerCommand (bodyFrom list) (.wake 0) (accept w s)).result = .ok) :
    registerCommand (bodyFrom list) (.wake 0) (accept w s) = s.completedAfter (wakePart s ++ ws) := by
  have ends : Stretch (accept w s) ((ensureReady (.wake 0) (accept w s)).andThen (bodyFrom list (.wake 0))) :=
    (ensureReady_stretch _ _).andThen fun u => memWrites_stretch _ _ _ u
  obtain ⟨u, hon⟩ := ends.on_of_ok (by simp) hidle hok
  obtain ⟨t, hwake, hown⟩ := andThen_eq_on.mp hon
  obtain ⟨hy, rfl⟩ := ensureReady_on hwake
  exact command_completes hlist ((yields_add s.transport).mpr ⟨hy, hlist ▸ memWrites_on hown⟩)

end EndedOk

section WrittenImages

/-- Writes change the images of their own registers only (R58). -/
theorem ext_wrote_other {ws : List RegWrite} {r : Byte} (h : ∀ w ∈ ws, w.reg ≠ r) (s : State) :
    (s.wrote ws).ext r = s.ext r := by
  induction ws generalizing s with
  | nil => rw [wrote_nil]
  | cons w ws ih =>
    obtain ⟨hw, hws⟩ := List.forall_mem_cons.mp h
    rw [wrote_cons, ih hws, ext_answered_other hw]

/-- Writes to different registers, all answered OK, leave each register's value as its image (R58). -/
theorem ext_wrote_of_mem {ws : List RegWrite} (hnodup : (ws.map RegWrite.reg).Nodup) {w : RegWrite} (hw : w ∈ ws)
    (s : State) : (s.wrote ws).ext w.reg = .among [w.val] := by
  induction ws generalizing s with
  | nil => cases hw
  | cons v ws ih =>
    obtain ⟨hv, hws⟩ := List.nodup_cons.mp hnodup
    rw [wrote_cons]
    obtain rfl | hw := List.mem_cons.mp hw
    · rw [ext_wrote_other fun u hu heq => hv (List.mem_map.mpr ⟨u, hu, heq⟩), ext_answered_ok]
    · exact ih hws hw _

/-- A completed command leaves the value of each write of its own list as the image of its register, whatever was written
before. -/
theorem ext_completedAfter_of_mem {vs ws : List RegWrite} (hnodup : (ws.map RegWrite.reg).Nodup) {w : RegWrite}
    (hw : w ∈ ws) (s : State) : (s.completedAfter (vs ++ ws)).ext w.reg = .among [w.val] := by
  have written : (s.completedAfter (vs ++ ws)).ext w.reg = (s.wrote (vs ++ ws)).ext w.reg := ext_congr rfl rfl _
  rw [written, wrote_append, ext_wrote_of_mem hnodup hw]

end WrittenImages

end Sys2Proof.Machine

/-! The motor encoder (R120 to R126): the drive of a motor by its on-pair and its off-pair, the two motor commands with every
write answered OK, and the images that a MOTOR_ON leaves. -/

namespace Sys2Proof.Machine

section MotorCommands

/-- The base of the pair that takes the speed: the motor's first pair forward, its second in reverse (R121). -/
def motorOnPair (L : Literals) (m : Nat) (dir : Dir) : Byte := if dir = .forward then motorBase L m else motorPairB L m

/-- The base of the pair that is zeroed (R121). -/
def motorOffPair (L : Literals) (m : Nat) (dir : Dir) : Byte := if dir = .forward then motorPairB L m else motorBase L m

/-- MotorDrive's four writes from its two pairs (R121). -/
theorem motorDriveList_eq (L : Literals) (m : Nat) (dir : Dir) (speed : Int) :
    let v := speed * L.speedScale
    motorDriveList L m dir speed =
      [⟨motorOnPair L m dir, byteOf (v % 256)⟩, ⟨motorOnPair L m dir + 1, byteOf (v / 256)⟩,
       ⟨motorOffPair L m dir, 0⟩, ⟨motorOffPair L m dir + 1, 0⟩] := by
  intro v
  rw [← lowByte_eq]
  cases dir with
  | forward => rfl
  | reverse => rfl

/-- Settles O19: each row is MotorDrive's four writes with the row's two pairs. -/
theorem motorDirectionMultiplexerTable : Obligations.MotorDirectionMultiplexerTable := by
  intro speed _ _
  have row (m : Nat) (dir : Dir) := motorDriveList_eq lit m dir speed
  exact ⟨row 1 .forward, row 1 .reverse, row 2 .forward, row 2 .reverse, row 3 .forward, row 3 .reverse,
    row 4 .forward, row 4 .reverse⟩

/-- Settles O20: the wake writes leave the parameters as they were, so the command's own list is that of the state before it. -/
theorem motorOnDrivesOnePairAndZeroesTheOther : Obligations.MotorOnDrivesOnePairAndZeroesTheOther := by
  intro m dir imm s _ _ hok
  exact congrArg Host.Outcome.next (command_completes (motorDriveList_eq _ m dir _) hok)

/-- Settles O21: the command's own list is MotorZero's in every state. -/
theorem motorOffZeroesAllFour : Obligations.MotorOffZeroesAllFour := by
  intro m s _ _ hok
  exact congrArg Host.Outcome.next (command_completes (list := fun t => motorZeroList t.cfg.lit m) rfl hok)

end MotorCommands

section DirectionSwap

/-- The two pairs of a motor are four registers (R55). -/
theorem motorDriveList_nodup (m : Nat) (dir : Dir) (speed : Int) :
    ((motorDriveList lit m dir speed).map RegWrite.reg).Nodup := by
  have apart (b : Byte) : [b, b + 1, b + 4, b + 4 + 1].Nodup ∧ [b + 4, b + 4 + 1, b, b + 1].Nodup := by
    simp [add_assoc]
  cases dir with
  | forward => exact (apart (motorBase lit m)).1
  | reverse => exact (apart (motorBase lit m)).2

/-- A MOTOR_ON that ended OK has made the wake writes, where it needed them, and MotorDrive's four. -/
theorem motorOn_ok {m : Nat} {dir : Dir} {imm : Imm} {s t : State} (hstd : s.Standard)
    (h : exec (.motorOn m dir imm) s = .next t) (hidle : t.seq = .idle) (hok : t.result = .ok) :
    t = s.completedAfter (wakePart s ++ motorDriveList lit m dir (motorSpeed lit imm)) := by
  cases h
  exact command_ok (congrArg (fun L => motorDriveList L m dir (motorSpeed L imm)) hstd) hidle hok

/-- A MOTOR_ON that ended OK leaves its on-pair driven and its off-pair 0 (R58, R126). -/
theorem motorOn_ok_image {m : Nat} {dir : Dir} {imm : Imm} {s t : State} (hstd : s.Standard)
    (h : exec (.motorOn m dir imm) s = .next t) (hidle : t.seq = .idle) (hok : t.result = .ok) :
    let v := motorSpeed lit imm * lit.speedScale
    t.ext (motorOnPair lit m dir) = .among [byteOf (v % 256)] ∧
      t.ext (motorOnPair lit m dir + 1) = .among [byteOf (v / 256)] ∧
      t.ext (motorOffPair lit m dir) = .among [0] ∧ t.ext (motorOffPair lit m dir + 1) = .among [0] := by
  have image : ∀ w ∈ motorDriveList lit m dir (motorSpeed lit imm), t.ext w.reg = .among [w.val] := by
    rw [motorOn_ok hstd h hidle hok]
    exact fun w hw => ext_completedAfter_of_mem (motorDriveList_nodup ..) hw s
  rw [motorDriveList_eq] at image
  simpa using image

/-- The two directions exchange a motor's two pairs (R122). -/
theorem motorPairs_swap {dir dir' : Dir} (h : dir' ≠ dir) (L : Literals) (m : Nat) :
    motorOnPair L m dir' = motorOffPair L m dir ∧ motorOffPair L m dir' = motorOnPair L m dir := by
  cases dir with
  | forward =>
    cases dir' with
    | forward => exact absurd rfl h
    | reverse => exact ⟨rfl, rfl⟩
  | reverse =>
    cases dir' with
    | forward => exact ⟨rfl, rfl⟩
    | reverse => exact absurd rfl h

/-- Settles O22: the two directions exchange the pairs, and each MOTOR_ON that ends OK has written both. -/
theorem directionSwapMovesTheDrivenPair : Obligations.DirectionSwapMovesTheDrivenPair := by
  intro m dir imm s t hstd _ _ ht hidle hok v lo hi a onR offR
  have hpairB : motorPairB lit m = BitVec.ofNat 8 (a + 4) := byteAddress_add rfl
  have hon : BitVec.ofNat 8 onR = motorOnPair lit m dir := by
    rw [motorOnPair, hpairB, apply_ite (BitVec.ofNat 8)]
    rfl
  have hoff : BitVec.ofNat 8 offR = motorOffPair lit m dir := by
    rw [motorOffPair, hpairB, apply_ite (BitVec.ofNat 8)]
    rfl
  rw [← byteAddress_add (rfl : onR + 1 = onR + 1), ← byteAddress_add (rfl : offR + 1 = offR + 1), hon, hoff]
  refine ⟨motorOn_ok_image hstd ht hidle hok, fun dir' u hdir hu hidle' hok' => ?_⟩
  have hstd' : t.Standard := motorOn_ok hstd ht hidle hok ▸ hstd
  obtain ⟨hlo, hhi, hlow0, hhigh0⟩ := motorOn_ok_image hstd' hu hidle' hok'
  obtain ⟨honPair, hoffPair⟩ := motorPairs_swap hdir lit m
  rw [honPair] at hlo hhi
  rw [hoffPair] at hlow0 hhigh0
  exact ⟨hlow0, hhigh0, hlo, hhi⟩

end DirectionSwap

end Sys2Proof.Machine

/-! The roundings of the angle-to-step map (R136; 93 I3): each stays within one divisor of the exact quotient, which bounds it and
makes it exact where the quotient is. -/

namespace Sys2Proof.Machine

section Roundings

theorem roundDiv_trunc (a b : Int) : roundDiv .trunc a b = a.tdiv b := tdiv_eq a b

theorem roundDiv_floor (a b : Int) : roundDiv .floor a b = a / b := rfl

theorem roundDiv_floor_spec {b : Int} (hb : 0 < b) (a : Int) :
    b * roundDiv .floor a b ≤ a ∧ a < b * (roundDiv .floor a b + 1) := by
  rw [roundDiv_floor]
  exact ⟨Int.mul_ediv_self_le hb.ne', by linarith [Int.lt_mul_ediv_self_add (x := a) hb]⟩

/-- Rounding up is rounding the negative down. -/
theorem roundDiv_ceil_spec {b : Int} (hb : 0 < b) (a : Int) :
    b * (roundDiv .ceil a b - 1) < a ∧ a ≤ b * roundDiv .ceil a b := by
  have hneg : roundDiv .ceil a b = -roundDiv .floor (-a) b := rfl
  obtain ⟨hle, hlt⟩ := roundDiv_floor_spec hb (-a)
  rw [hneg]
  exact ⟨by linarith, by linarith⟩

/-- Rounding to nearest is odd: it looks at the magnitude and puts the sign back. -/
theorem roundDiv_nearest_neg (a b : Int) : roundDiv .nearest (-a) b = -roundDiv .nearest a b := by
  simp [roundDiv]

/-- Of a number that is not negative, rounding to nearest is rounding down after adding a half. -/
theorem roundDiv_nearest_of_nonneg {a b : Int} (hb : 0 < b) (ha : 0 ≤ a) :
    roundDiv .nearest a b = (2 * a + b) / (2 * b) := by
  obtain rfl | hpos := ha.eq_or_lt
  · simp [roundDiv, Int.ediv_eq_zero_of_lt hb.le (by omega : b < 2 * b)]
  · rw [roundDiv, Int.sign_eq_one_of_pos hpos, one_mul, Int.natAbs_of_nonneg ha, fdiv]

/-- Rounding to nearest errs by at most a half, and by a half only away from zero. -/
theorem roundDiv_nearest_spec {b : Int} (hb : 0 < b) (a : Int) :
    let q := roundDiv .nearest a b
    2 * |a - b * q| ≤ b ∧ (2 * |a - b * q| = b → |a| < |b * q|) := by
  have of_nonneg {a : Int} (ha : 0 ≤ a) : 2 * |a - b * roundDiv .nearest a b| ≤ b ∧
      (2 * |a - b * roundDiv .nearest a b| = b → |a| < |b * roundDiv .nearest a b|) := by
    rw [roundDiv_nearest_of_nonneg hb ha]
    obtain ⟨hle, hlt⟩ := roundDiv_floor_spec (by omega : 0 < 2 * b) (2 * a + b)
    rw [roundDiv_floor] at hle hlt
    generalize (2 * a + b) / (2 * b) = q at hle hlt
    have low : -b ≤ 2 * (a - b * q) := by linarith
    have high : 2 * (a - b * q) < b := by linarith
    obtain ⟨habs, -⟩ | ⟨habs, -⟩ := abs_cases (a - b * q) <;> rw [habs]
    · exact ⟨high.le, fun half => absurd half high.ne⟩
    · refine ⟨by linarith, fun half => ?_⟩
      have away : a < b * q := by linarith
      rwa [abs_of_nonneg ha, abs_of_nonneg (ha.trans away.le)]
  intro q
  obtain ha | ha := le_total 0 a
  · exact of_nonneg ha
  · have h := of_nonneg (neg_nonneg.mpr ha)
    have hdiff : -a - b * -q = -(a - b * q) := by ring
    rwa [roundDiv_nearest_neg, hdiff, mul_neg, abs_neg, abs_neg, abs_neg] at h

/-- Every rounding is less than one divisor off the exact quotient. -/
theorem roundDiv_near (r : StepRound) {b : Int} (hb : 0 < b) (a : Int) : |a - b * roundDiv r a b| < b := by
  cases r with
  | trunc =>
    rw [roundDiv_trunc, ← Int.tmod_def]
    exact abs_lt.mpr ⟨Int.lt_tmod_of_pos a hb, Int.tmod_lt_of_pos a hb⟩
  | floor =>
    obtain ⟨hle, hlt⟩ := roundDiv_floor_spec hb a
    exact abs_lt.mpr ⟨by linarith, by linarith⟩
  | nearest => linarith [(roundDiv_nearest_spec hb a).1, abs_nonneg (a - b * roundDiv .nearest a b)]
  | ceil =>
    obtain ⟨hlt, hle⟩ := roundDiv_ceil_spec hb a
    exact abs_lt.mpr ⟨by linarith, by linarith⟩

/-- Every rounding lies between the integer bounds of the exact quotient. -/
theorem roundDiv_bounds (r : StepRound) {a b lo hi : Int} (hb : 0 < b) (hlo : b * lo ≤ a) (hhi : a ≤ b * hi) :
    lo ≤ roundDiv r a b ∧ roundDiv r a b ≤ hi := by
  obtain ⟨hl, hu⟩ := abs_lt.mp (roundDiv_near r hb a)
  have below : b * (lo - 1) < b * roundDiv r a b := by linarith
  have above : b * roundDiv r a b < b * (hi + 1) := by linarith
  have := lt_of_mul_lt_mul_left below hb.le
  have := lt_of_mul_lt_mul_left above hb.le
  omega

/-- An exact quotient is the same under every rounding. -/
theorem roundDiv_mul_self (r : StepRound) {b : Int} (hb : 0 < b) (c : Int) : roundDiv r (b * c) b = c := by
  obtain ⟨hle, hge⟩ := roundDiv_bounds r hb (le_refl (b * c)) (le_refl (b * c))
  exact le_antisymm hge hle

end Roundings

section AngleToSteps

/-- The lower end of the angle's range is one step (R136). -/
theorem angleToSteps_min {L : Literals} (h : L.angleMin < L.angleMax) (r : StepRound) (spr : Int) :
    angleToSteps L r L.angleMin spr = 1 := by
  have hexact := roundDiv_mul_self r (sub_pos.mpr h) 0
  rw [angleToSteps, sub_self, zero_mul, ← mul_zero (L.angleMax - L.angleMin), hexact, add_zero]

/-- The upper end of the angle's range is a revolution (R136). -/
theorem angleToSteps_max {L : Literals} (h : L.angleMin < L.angleMax) (r : StepRound) (spr : Int) :
    angleToSteps L r L.angleMax spr = spr := by
  rw [angleToSteps, roundDiv_mul_self r (sub_pos.mpr h), add_sub_cancel]

/-- A step count lies between 1 and `spr`, whichever of the two is greater (R136). -/
theorem angleToSteps_bounds {L : Literals} (h : L.angleMin < L.angleMax) (r : StepRound) {a spr : Int} (hlo : L.angleMin ≤ a)
    (hhi : a ≤ L.angleMax) : min 1 spr ≤ angleToSteps L r a spr ∧ angleToSteps L r a spr ≤ max 1 spr := by
  have hd : 0 < L.angleMax - L.angleMin := sub_pos.mpr h
  have hu : 0 ≤ a - L.angleMin := sub_nonneg.mpr hlo
  have hud : a - L.angleMin ≤ L.angleMax - L.angleMin := by omega
  unfold angleToSteps
  obtain hspr | hspr := le_total 0 (spr - 1)
  · obtain ⟨hle, hge⟩ := roundDiv_bounds r hd (lo := 0) (by simpa using mul_nonneg hu hspr)
      (mul_le_mul_of_nonneg_right hud hspr)
    omega
  · obtain ⟨hle, hge⟩ := roundDiv_bounds r hd (hi := 0) (mul_le_mul_of_nonpos_right hud hspr)
      (by simpa using mul_nonpos_of_nonneg_of_nonpos hu hspr)
    omega

/-- Settles O28: each rounding is its own specification, and all of them are near the exact quotient. -/
theorem everyRoundingRoundsAsNamed : Obligations.EveryRoundingRoundsAsNamed := by
  intro L r a spr hrange hlo hhi hspr0 hspr d x q
  have hd : 0 < d := sub_pos.mpr hrange
  have hq : q = roundDiv r x d := add_sub_cancel_left ..
  have hbounds : 0 ≤ q + 1 ∧ q + 1 ≤ 65535 := by
    have := angleToSteps_bounds (spr := spr) hrange r hlo hhi
    omega
  rw [hq] at hbounds ⊢
  refine ⟨hbounds, ?_, ?_, ?_, ?_, ?_, angleToSteps_min hrange r spr, angleToSteps_max hrange r spr, rfl⟩
  · rintro rfl
    exact roundDiv_trunc x d
  · rintro rfl
    exact roundDiv_floor_spec hd x
  · rintro rfl
    exact roundDiv_nearest_spec hd x
  · rintro rfl
    exact roundDiv_ceil_spec hd x
  · rintro ⟨c, hc⟩
    rw [hc, roundDiv_mul_self r hd, Int.mul_ediv_cancel_left c hd.ne']

/-- The map under TRUNC at this hardware's parameters (R136). -/
theorem angleToSteps_trunc (a spr : Int) : angleToSteps lit .trunc a spr = 1 + ((a - 1) * (spr - 1)).tdiv 359 :=
  congrArg (1 + ·) (roundDiv_trunc ..)

/-- Settles O27: truncation is the library's `tdiv`, and floors where the map does not go below 1. -/
theorem angleToStepsTruncates : Obligations.AngleToStepsTruncates := by
  intro a spr ha0 ha spr0 hspr
  have hrange : lit.angleMin < lit.angleMax := by decide
  obtain ⟨hlo, hhi⟩ := angleToSteps_bounds (spr := spr) hrange .trunc ha0 ha
  refine ⟨angleToSteps_trunc a spr, angleToSteps_min hrange _ spr, angleToSteps_max hrange _ spr,
    fun h => ⟨by omega, by omega, ?_⟩, fun h => ⟨by omega, by omega⟩⟩
  have hx : 0 ≤ (a - 1) * (spr - 1) := mul_nonneg (by omega) (by omega)
  rw [angleToSteps_trunc, Int.tdiv_eq_ediv_of_nonneg hx]
  rfl

/-- With no steps per revolution the map goes from 1 down to 0, which truncation reaches only at the range's upper end (R136). -/
theorem angleToSteps_trunc_spr_zero {a : Int} (ha : 1 ≤ a) : angleToSteps lit .trunc a 0 = 1 - (a - 1) / 359 := by
  have hneg : (a - 1) * (0 - 1) = -(a - 1) := by ring
  rw [angleToSteps_trunc, hneg, Int.neg_tdiv, Int.tdiv_eq_ediv_of_nonneg (by omega)]
  rfl

/-- Under TRUNC an angle is no step only at 360 degrees and no steps per revolution (R141). -/
theorem angleToSteps_trunc_toNat_eq_zero_iff {a : Int} (ha1 : 1 ≤ a) (ha : a ≤ 360) (spr : Nat) :
    (angleToSteps lit .trunc a spr).toNat = 0 ↔ spr = 0 ∧ a = 360 := by
  obtain rfl | hspr := Nat.eq_zero_or_pos spr
  · have := angleToSteps_trunc_spr_zero ha1
    rw [Nat.cast_zero]
    omega
  · obtain ⟨hlo, -⟩ := angleToSteps_bounds (L := lit) (spr := spr) (by decide) .trunc ha1 ha
    omega

end AngleToSteps

end Sys2Proof.Machine

/-! The stepper sequencer (R130 to R141): the phase and the writes of each step, the state of a turn after some whole steps, and
the two stepper commands where the turn completes, where it has no step, and where a write of a step is NACKed. -/

namespace Sys2Proof.Machine

section Phases

theorem turnPhase_zero (dir : Dir) : turnPhase dir 0 = 1 := by
  cases dir <;> rfl

theorem turnPhase_bounds (dir : Dir) (i : Nat) : 1 ≤ turnPhase dir i ∧ turnPhase dir i ≤ 4 := by
  cases dir <;> simp only [turnPhase] <;> omega

/-- NextPhase takes the phase of each step of a turn to that of the next (R134). -/
theorem nextPhase_turnPhase (dir : Dir) (i : Nat) : nextPhase (turnPhase dir i) dir = turnPhase dir (i + 1) := by
  cases dir <;> simp only [nextPhase, turnPhase] <;> omega

theorem nextPhase_iterate (dir : Dir) (i : Nat) : (fun p => nextPhase p dir)^[i] 1 = turnPhase dir i := by
  induction i with
  | zero => exact (turnPhase_zero dir).symm
  | succ i ih => rw [Function.iterate_succ_apply', ih, nextPhase_turnPhase]

/-- Settles O23: the iterate of NextPhase is the phase of the step, by induction on the step. -/
theorem phaseOfEachStep : Obligations.PhaseOfEachStep :=
  ⟨by decide, by decide, fun i => ⟨nextPhase_iterate .forward i, nextPhase_iterate .reverse i⟩⟩

theorem phaseNumber_bounds (s : State) : 1 ≤ s.phaseNumber ∧ s.phaseNumber ≤ 4 := by
  have := s.phase.isLt
  unfold State.phaseNumber
  omega

/-- The writes of the current step are those of its phase. -/
theorem stepWriteList_eq (k : Nat) (s : State) : stepWriteList k s = stepWritesAt s.cfg.lit k s.phaseNumber := rfl

/-- R138's table, for the two steppers and the four phases. -/
theorem stepWritesAt_lit : ∀ k ∈ List.range' 1 2, ∀ p ∈ List.range' 1 4, stepWritesAt lit k p = stepRow k p := by
  decide

theorem stepWritesAt_lit_of_bounds {k p : Nat} (hk : 1 ≤ k ∧ k ≤ 2) (hp : 1 ≤ p ∧ p ≤ 4) :
    stepWritesAt lit k p = stepRow k p :=
  stepWritesAt_lit k (List.mem_range'_1.mpr (by omega)) p (List.mem_range'_1.mpr (by omega))

/-- Settles O24: every state's phase is one of the table's four. -/
theorem stepWritesOfEachPhase : Obligations.StepWritesOfEachPhase := by
  refine ⟨fun k s hstd hk1 hk2 => ?_, fun k p hk1 hk2 hp1 hp4 => stepWritesAt_lit_of_bounds ⟨hk1, hk2⟩ ⟨hp1, hp4⟩⟩
  rw [stepWriteList_eq, hstd, stepWritesAt_lit_of_bounds ⟨hk1, hk2⟩ (phaseNumber_bounds s)]

end Phases

section Loop

/-- The state of a turn from `s` at its loop head, after `n` whole steps that were answered OK and whose dwells elapsed (R133). -/
def State.afterSteps (k : Nat) (dir : Dir) (n : Nat) (s : State) : State :=
  { s with
    phase := BitVec.ofNat 2 (turnPhase dir n - 1)
    stepI := BitVec.ofNat 17 n
    log := (turnEvents s k dir n).reverse ++ s.log
    transport := s.transport.drop (4 * n)
    dwells := s.dwells.drop n }

variable {k n : Nat} {dir : Dir}

theorem turnEvents_zero (s : State) : turnEvents s k dir 0 = [] := rfl

/-- A step more is its four writes and its dwell more. -/
theorem turnEvents_succ (s : State) : turnEvents s k dir (n + 1) = turnEvents s k dir n ++
    (((stepWritesAt s.cfg.lit k (turnPhase dir n)).map fun w => s.writeEvent w .ok) ++ [.dwell s.cfg.dwellMs]) := by
  simp [turnEvents, List.range_succ, List.flatMap_append]

theorem afterSteps_zero (s : State) : s.afterSteps k dir 0 = turnStart s := by
  simp [State.afterSteps, turnPhase_zero, turnEvents_zero, turnStart]

/-- PHASE holds the phase of the step at hand (R134). -/
theorem phaseNumber_afterSteps (s : State) : (s.afterSteps k dir n).phaseNumber = turnPhase dir n := by
  have := turnPhase_bounds dir n
  simp only [State.phaseNumber, State.afterSteps, BitVec.toNat_ofNat]
  omega

theorem stepWriteList_afterSteps (s : State) :
    stepWriteList k (s.afterSteps k dir n) = stepWritesAt s.cfg.lit k (turnPhase dir n) := by
  rw [stepWriteList_eq, phaseNumber_afterSteps]
  rfl

/-- One more step, from loop head to loop head. -/
theorem afterSteps_succ (s : State) :
    turnAdvance dir ((s.afterSteps k dir n).wrote (stepWriteList k (s.afterSteps k dir n))).dwelt =
      s.afterSteps k dir (n + 1) := by
  have hphase : ((s.afterSteps k dir n).wrote (stepWriteList k (s.afterSteps k dir n))).dwelt.phaseNumber = turnPhase dir n :=
    phaseNumber_afterSteps (k := k) s
  have hlen : (stepWritesAt s.cfg.lit k (turnPhase dir n)).length = 4 := rfl
  rw [turnAdvance, hphase, nextPhase_turnPhase, stepWriteList_afterSteps]
  simp [State.afterSteps, State.wrote, State.dwelt, turnEvents_succ, hlen, BitVec.ofNat_add, Nat.mul_succ, State.writeEvent]

/-- A turn whose first `n` steps are answered OK and dwelt is at its loop head after them (R133). -/
theorem turnLoop_afterSteps {m : Nat} {s : State} (hok : s.transport.Yields (4 * n) .ok) (hdw : s.dwells.Yields n .elapses) :
    turnLoop k dir (n + m) (.body 0) (turnStart s) = turnLoop k dir m (.body 0) (s.afterSteps k dir n) := by
  induction n generalizing m with
  | zero => rw [afterSteps_zero, Nat.zero_add]
  | succ n ih =>
    obtain ⟨hok, hok4⟩ := (yields_add s.transport).mp hok
    obtain ⟨hdw, hdw1⟩ := (yields_add s.dwells).mp hdw
    have hstep : turnLoop k dir (m + 1) (.body 0) (s.afterSteps k dir n) =
        turnLoop k dir m (.body 0) (s.afterSteps k dir (n + 1)) := by
      rw [turnLoop_succ_ok (s := s.afterSteps k dir n) hok4 (hdw1 0 one_pos), afterSteps_succ]
    rw [Nat.add_right_comm, Nat.add_assoc, ih hok hdw, hstep]

/-- A turn's loop goes on to its end only where every write was answered OK and every dwell elapsed (R133). -/
theorem turnLoop_on {s u : State} (h : turnLoop k dir n (.body 0) s = .on u) :
    s.transport.Yields (4 * n) .ok ∧ s.dwells.Yields n .elapses := by
  induction n generalizing s with
  | zero => exact ⟨yields_zero _ _, yields_zero _ _⟩
  | succ n ih =>
    obtain ⟨t, hstep, hrest⟩ := andThen_eq_on.mp ((turnLoop_succ ..).symm.trans h)
    obtain ⟨v, hbody, hdwell⟩ := andThen_eq_on.mp hstep
    have hok : s.transport.Yields 4 .ok := memWrites_on hbody
    obtain rfl : s.wrote (stepWriteList k s) = v := Flow.on.inj ((memWrites_ok .body (stepWriteList k s) 0 s hok).symm.trans hbody)
    cases hd : s.dwells.head with
    | holds => cases (dwell_holds (s := s.wrote (stepWriteList k s)) hd).symm.trans hdwell
    | elapses =>
      cases (dwell_elapses (s := s.wrote (stepWriteList k s)) hd).symm.trans hdwell
      obtain ⟨hoks, hdws⟩ := ih hrest
      rw [Nat.mul_succ, Nat.add_comm (4 * n), Nat.add_comm n]
      refine ⟨(yields_add _).mpr ⟨hok, hoks⟩, (yields_add _).mpr ⟨fun j hj => ?_, hdws⟩⟩
      obtain rfl : j = 0 := by omega
      exact hd

end Loop

section Turning
variable {i : Instr} {k n : Nat} {dir : Dir} {s : State}

/-- The state of an accepted command that has made its wake writes, all answered OK (R101). -/
def State.woken (i : Instr) (s : State) : State := ((accept (encode i) s).wrote (wakePart s)).markReady

theorem stepTotal_woken (i : Instr) (s : State) : stepTotal i (s.woken i) = stepTotal i s := by
  cases i <;> rfl

theorem resume_turn (hi : turnOf i = some (k, dir)) :
    resume i (.wake 0) (accept (encode i) s) =
      ((ensureReady (.wake 0) (accept (encode i) s)).andThen fun t =>
        turnLoop k dir (stepTotal i t) (.body 0) (turnStart t)).finish := by
  have hw : wakes i (accept (encode i) s) = true := by
    simp [wakes, writesRegisters_of_turns (turns_of_turnOf hi)]
  have hown : ownFlow i (.wake 0) = fun t => turnLoop k dir (stepTotal i t) (.body 0) (turnStart t) :=
    funext fun t => ownFlow_turn hi ..
  rw [resume_of_wakes hw, registerCommand, hown]

/-- A stepper command whose wake writes and first `n` steps are answered OK is at its loop head after them (R103, R133). -/
theorem exec_turn_afterSteps {m : Nat} (hi : turnOf i = some (k, dir)) (htotal : stepTotal i s = n + m)
    (hok : s.transport.Yields ((wakePart s).length + 4 * n) .ok) (hdw : s.dwells.Yields n .elapses) :
    exec i s = .next (turnLoop k dir m (.body 0) ((s.woken i).afterSteps k dir n)).finish := by
  obtain ⟨hwake, hsteps⟩ := (yields_add s.transport).mp hok
  have hready : ensureReady (.wake 0) (accept (encode i) s) = .on (s.woken i) := ensureReady_ok hwake
  rw [exec_eq_resume, resume_turn hi, hready, andThen_on, stepTotal_woken, htotal,
    turnLoop_afterSteps (s := s.woken i) hsteps hdw]

/-- The end of a turn of `n` steps (R137, R176). -/
theorem complete_afterSteps (i : Instr) (k : Nat) (dir : Dir) (n : Nat) (s : State) :
    complete ((s.woken i).afterSteps k dir n) = s.turned k dir n := by
  have hevents : turnEvents (s.woken i) k dir n = turnEvents s k dir n := rfl
  rw [State.afterSteps, hevents]
  simp [State.turned, State.woken, complete, State.wrote, State.markReady, accept, State.writeEvent]

/-- A stepper command whose writes are all answered OK and whose dwells elapse completes its turn (R130, R135). -/
theorem exec_turn_completes (hi : turnOf i = some (k, dir))
    (hok : s.transport.Yields ((wakePart s).length + 4 * stepTotal i s) .ok) (hdw : s.dwells.Yields (stepTotal i s) .elapses) :
    exec i s = .next (s.turned k dir (stepTotal i s)) := by
  rw [exec_turn_afterSteps (n := stepTotal i s) (m := 0) hi rfl hok hdw, turnLoop, finish_on, complete_afterSteps]

/-- Settles O25: the turn's count is the low STEPS_WIDTH bits of IMM. -/
theorem stepTurnRunsEveryStep : Obligations.StepTurnRunsEveryStep := by
  intro k dir imm s _ _ steps hok hdw
  exact exec_turn_completes (i := .stepTurn k dir imm) rfl hok hdw

/-- Settles O26: the turn's count is the converted angle. -/
theorem stepAngleTurnsTheConvertedCount : Obligations.StepAngleTurnsTheConvertedCount := by
  intro k dir imm s _ _ spr angle steps hok hdw
  have hspr : (s.spr k).toNat = spr := apply_ite BitVec.toNat ..
  have htotal : stepTotal (.stepAngle k dir imm) s = steps := by
    rw [stepTotal, angleSteps, hspr]
    rfl
  rw [← htotal] at hok hdw ⊢
  exact exec_turn_completes rfl hok hdw

/-- Only a turn whose writes were all answered OK and whose dwells all elapsed ends OK (R133, R174). -/
theorem exec_turn_ok {t : State} (hi : turnOf i = some (k, dir)) (h : exec i s = .next t) (hidle : t.seq = .idle)
    (hok : t.result = .ok) : t = s.turned k dir (stepTotal i s) := by
  obtain rfl : resume i (.wake 0) (accept (encode i) s) = t := Host.Outcome.next.inj ((exec_eq_resume i s).symm.trans h)
  rw [resume_turn hi] at hidle hok
  have ends := (ensureReady_stretch (.wake 0) (accept (encode i) s)).andThen fun u =>
    (turnLoop_stretch k dir (stepTotal i u) (.body 0) _).of_underway (underway_turnStart u)
  obtain ⟨u, hon⟩ := ends.on_of_ok (by simp) hidle hok
  obtain ⟨v, hwake, hloop⟩ := andThen_eq_on.mp hon
  obtain ⟨hwakes, hv⟩ := ensureReady_on hwake
  obtain rfl : v = s.woken i := hv
  obtain ⟨hsteps, hdw⟩ := turnLoop_on hloop
  rw [stepTotal_woken] at hsteps hdw
  exact Host.Outcome.next.inj (h.symm.trans (exec_turn_completes hi ((yields_add s.transport).mpr ⟨hwakes, hsteps⟩) hdw))

end Turning

section Length
variable {k n : Nat} {dir : Dir}

theorem turnEvents_countP_isWrite (s : State) : (turnEvents s k dir n).countP Event.isWrite = 4 * n := by
  induction n with
  | zero => rfl
  | succ n ih =>
    rw [turnEvents_succ, List.countP_append, ih]
    rfl

theorem turnEvents_filter_isDwell (s : State) :
    (turnEvents s k dir n).filter Event.isDwell = List.replicate n (.dwell s.cfg.dwellMs) := by
  induction n with
  | zero => rfl
  | succ n ih =>
    rw [turnEvents_succ, List.filter_append, ih, List.replicate_succ']
    rfl

theorem newEvents_turned {s : State} (hc : s.chipInit = true) : newEvents s (s.turned k dir n) = turnEvents s k dir n := by
  have hlog : (s.turned k dir n).log = (turnEvents s k dir n).reverse ++ s.log := by
    rw [State.turned, wakePart_ready hc]
    rfl
  rw [newEvents_of_log hlog, List.reverse_reverse]

/-- Settles O30: a command that ends OK has turned, and each step of the turn is four writes and a dwell. -/
theorem lengthOfATurn : Obligations.LengthOfATurn := by
  intro i s t hturns hc h hidle hok
  obtain ⟨k, dir, hi⟩ := exists_turnOf hturns
  rw [exec_turn_ok hi h hidle hok, newEvents_turned hc]
  exact ⟨turnEvents_countP_isWrite s, turnEvents_filter_isDwell s⟩

end Length

section Nacked

/-- A list of writes is aborted at the first one that is NACKed (R53, R174). -/
theorem memWrites_nack {pt : Nat → Point} {j : Nat} {vs us : List RegWrite} {v : RegWrite} {s : State}
    (hok : s.transport.Yields vs.length .ok) (hnack : s.transport.at vs.length = .nack) :
    memWrites pt j (vs ++ v :: us) s = .off (raise (.transport v.reg) ((s.wrote vs).answered v .nack)) := by
  induction vs generalizing j s with
  | nil => rw [List.nil_append, memWrites_cons, memWrite_nack hnack, andThen_off, wrote_nil]
  | cons w vs ih =>
    rw [List.length_cons, Nat.add_comm] at hok hnack
    obtain ⟨hw, hvs⟩ := (yields_add s.transport).mp hok
    rw [List.cons_append, memWrites_cons, memWrite_ok (hw 0 one_pos), andThen_on, wrote_cons]
    exact ih hvs ((script_at_drop ..).trans hnack)

/-- The end of a turn at a NACKed write (R174). -/
theorem raise_afterSteps (i : Instr) (k : Nat) (dir : Dir) (n : Nat) (vs : List RegWrite) (v : RegWrite) (s : State) :
    raise (.transport v.reg) ((((s.woken i).afterSteps k dir n).wrote vs).answered v .nack) = s.turnAborted k dir n vs v := by
  have hevents : turnEvents (s.woken i) k dir n = turnEvents s k dir n := rfl
  rw [State.afterSteps, hevents]
  simp [State.turnAborted, State.woken, raise, State.answered, State.wrote, State.markReady, accept,
    State.writeEvent, Error.result, Error.failReg]

/-- A stepper command aborts at a NACKed write of the step after its `n` whole ones, with no dwell after it (R133, R174). -/
theorem exec_turn_nack {i : Instr} {k n : Nat} {dir : Dir} {s : State} {vs us : List RegWrite} {v : RegWrite}
    (hi : turnOf i = some (k, dir)) (hn : n < stepTotal i s) (hlist : stepWritesAt s.cfg.lit k (turnPhase dir n) = vs ++ v :: us)
    (hok : s.transport.Yields ((wakePart s).length + 4 * n + vs.length) .ok)
    (hnack : s.transport.at ((wakePart s).length + 4 * n + vs.length) = .nack) (hdw : s.dwells.Yields n .elapses) :
    exec i s = .next (s.turnAborted k dir n vs v) := by
  obtain ⟨m, htotal⟩ := Nat.exists_eq_add_of_lt hn
  obtain ⟨hsteps, hvs⟩ := (yields_add s.transport).mp hok
  let u := (s.woken i).afterSteps k dir n
  have hscript : u.transport = s.transport.drop ((wakePart s).length + 4 * n) := script_drop_drop ..
  have hbody : bodyFrom (stepWriteList k) (.body 0) u = .off (raise (.transport v.reg) ((u.wrote vs).answered v .nack)) := by
    have hown : stepWriteList k u = vs ++ v :: us := (stepWriteList_afterSteps (s.woken i)).trans hlist
    rw [bodyFrom, hown]
    exact memWrites_nack (hscript ▸ hvs) (by rw [hscript, script_at_drop, hnack])
  rw [exec_turn_afterSteps (m := m + 1) hi htotal hsteps hdw, turnLoop_succ, hbody, andThen_off, andThen_off, finish_off,
    raise_afterSteps]

/-- Settles O59: the NACK ends the turn before the step's dwell, and its event is the last one of the trace. -/
theorem turnNackKeepsEverythingElse : Obligations.TurnNackKeepsEverythingElse := by
  intro i k dir imm s n vs us v hinstr hn hlist hok hnack hdw
  have hi : turnOf i = some (k, dir) := by
    obtain rfl | rfl := hinstr <;> rfl
  refine ⟨exec_turn_nack hi hn hlist hok hnack hdw, ?_⟩
  have hlog : (s.turnAborted k dir n vs v).log = (((s.turned k dir n).wrote vs).answered v .nack).log := by
    simp [State.turnAborted, State.turned, State.wrote, State.writeEvent]
  rw [ext_congr hlog rfl, ext_answered_failed (by decide)]

end Nacked

section NoStep

/-- A turn of no step is the wake sequence alone (R141). -/
theorem turned_zero (k : Nat) (dir : Dir) (s : State) :
    s.turned k dir 0 = { s.completedAfter (wakePart s) with phase := 0, stepI := 0 } := by
  simp [State.turned, turnEvents_zero, turnPhase_zero, State.completedAfter, State.wrote]

theorem exec_turn_zero {i : Instr} {k : Nat} {dir : Dir} {s : State} (hi : turnOf i = some (k, dir))
    (hzero : stepTotal i s = 0) (hok : s.transport.Yields (wakePart s).length .ok) :
    exec i s = .next { s.completedAfter (wakePart s) with phase := 0, stepI := 0 } := by
  have h := exec_turn_completes (s := s) hi
  rw [hzero] at h
  rw [h hok (yields_zero _ _), turned_zero]

/-- Settles O29: a turn of no step completes at once, and TRUNC gives none only where the map reaches 0. -/
theorem zeroStepsEmitNothing : Obligations.ZeroStepsEmitNothing := by
  intro k dir imm s _ _
  refine ⟨fun hok => ⟨?_, fun hzero => exec_turn_zero (i := .stepAngle k dir imm) rfl hzero hok⟩, fun hstd htrunc => ?_⟩
  · exact exec_turn_zero (i := .stepTurn k dir 0) rfl (Nat.zero_mod _) hok
  · have hangle : angleSteps k imm s = (angleToSteps lit .trunc (min 360 (max 1 imm.toInt)) (s.spr k).toNat).toNat := by
      rw [angleSteps, hstd, htrunc]
      rfl
    have hspr : (s.spr k).toNat = 0 ↔ s.spr k = 0 := BitVec.toNat_inj (y := 0#16)
    rw [hangle, angleToSteps_trunc_toNat_eq_zero_iff (by omega) (by omega), hspr]

end NoStep

end Sys2Proof.Machine

/-! The setters (R150 to R157): without EnsureReady each is its own register's write, and the clamp laws follow from the values
stored. -/

namespace Sys2Proof.Machine

section SetterCommands

/-- A setter without EnsureReady is the end of the command and its own register's write (R103, R176). -/
theorem exec_setter {i : Instr} {s : State} (hi : writesRegisters i = false) (hset : s.cfg.setterInit = false) :
    exec i s = .next (effect i (complete s)) := by
  have hw : wakes i (accept (encode i) s) = false := by simp [wakes, hi, hset]
  have hturn : turnOf i = none :=
    (turnOf_none_iff i).mpr (Bool.eq_false_iff.mpr fun ht => by simp [writesRegisters_of_turns ht] at hi)
  have hown (u : State) : ownWrites i u = [] :=
    List.length_eq_zero_iff.mp (Nat.eq_zero_of_not_pos fun h => by simp [writesRegisters_of_ownWrites h] at hi)
  rw [exec_eq_resume, resume_eq, cmdFlow, hw, if_neg (by decide), andThen_on, ownFlow_list hturn, bodyFrom_past (by simp [hown]),
    andThen_on, finish_on, complete_effect]
  rfl

/-- Settles O57: each setter's write is its rule's formula, and R10's division is the library's. -/
theorem settersUseTheParameters : Obligations.SettersUseTheParameters := by
  intro k imm s hset L pct
  refine ⟨exec_setter rfl hset, exec_setter rfl hset, ?_, exec_setter rfl hset⟩
  rw [exec_setter rfl hset, effect, reducedMult, tdiv_eq]
  rfl

/-- A word written with its upper half is decoded to the command that encodes to it (R70, R80). -/
theorem decode_halves {i : Instr} {head : BitVec 16} {imm : Imm} (hwf : i.WellFormed lit) (he : encode i = head ++ imm) :
    decode lit (head ++ imm) = .ok i :=
  he ▸ Laws.decodeOfEncodeIsTheCommand lit i (by decide) (by decide) (by decide) (by decide) hwf

/-- Settles O32: SET_MULT at this hardware's bounds. -/
theorem setMultStoresTheClampedValue : Obligations.SetMultStoresTheClampedValue := by
  refine ⟨fun imm => decode_halves rfl rfl, fun imm s hstd hset => ?_⟩
  obtain ⟨hmult, -, -, -⟩ := settersUseTheParameters 1 imm s hset
  rwa [hstd] at hmult

/-- Settles O33: the immediates beyond a bound are stored as the bound. -/
theorem multiplierClampLaws : Obligations.MultiplierClampLaws := by
  intro s hstd hset
  have stores (imm : Imm) := setMultStoresTheClampedValue.2 imm s hstd hset
  exact ⟨(stores 0).trans (stores 113).symm, stores 113, (stores 300).trans (stores 226).symm, stores 226⟩

/-- Settles O34: SET_ZERO at this hardware's bounds. -/
theorem setZeroStoresTheClampedValue : Obligations.SetZeroStoresTheClampedValue := by
  refine ⟨fun imm => decode_halves rfl rfl, fun imm s hstd hset => ?_⟩
  obtain ⟨-, hzero, -, -⟩ := settersUseTheParameters 1 imm s hset
  rwa [hstd] at hzero

/-- Settles O35: the immediates beyond a bound are stored as the bound, and the two bounds differ. -/
theorem zeroOffsetClampLaws : Obligations.ZeroOffsetClampLaws := by
  intro imm s hstd hset
  have stores (imm : Imm) := setZeroStoresTheClampedValue.2 imm s hstd hset
  have same {u v : Imm} (h : min 204 (max 102 u.toInt) = min 204 (max 102 v.toInt)) :
      exec (.setZero u) s = exec (.setZero v) s := by rw [stores u, stores v, h]
  have low : (0x66 : Imm).toInt = 102 := rfl
  have high : (0xCC : Imm).toInt = 204 := rfl
  have differ : (102 : Byte) ≠ 204 := by decide
  refine ⟨fun h => same (by omega), fun h => same (by omega), fun heq => ?_⟩
  rw [stores 0x66, stores 0xCC] at heq
  exact differ (congrArg State.trimZero (Host.Outcome.next.inj heq))

/-- Settles O36: SET_SPR at this hardware's SPR_WIDTH, which is the width of IMM. -/
theorem setSprOverwritesOneRegister : Obligations.SetSprOverwritesOneRegister := by
  refine ⟨fun imm => ⟨decode_halves rfl rfl, decode_halves rfl rfl⟩, fun imm s hstd hset => ?_⟩
  have hlit : (complete s).cfg.lit = lit := hstd
  refine ⟨?_, ?_⟩
  · rw [exec_setter rfl hset, effect, hlit, sprValue_lit]
    rfl
  · rw [exec_setter rfl hset, effect, hlit, sprValue_lit]
    rfl

/-- Settles O38: REDUCE_PULSE at this hardware's base and bounds. -/
theorem reducePulseOverwritesTheMultiplier : Obligations.ReducePulseOverwritesTheMultiplier := by
  refine ⟨fun imm => decode_halves rfl rfl, fun imm s hstd hset hclamp => ?_⟩
  obtain ⟨-, -, hreduce, -⟩ := settersUseTheParameters 1 imm s hset
  rwa [hstd, if_pos hclamp] at hreduce

/-- Settles O39: half of REDUCE_BASE is MULT_MIN, so no percentage in 0..50 exceeds it, whichever way it is rounded. -/
theorem reducePulseAlwaysYields113 : Obligations.ReducePulseAlwaysYields113 := by
  refine ⟨fun imm s t hstd hset hclamp ht => ?_, fun r pct _ hpct => ?_⟩
  · have hlit : (complete s).cfg.lit = lit := hstd
    have hclamp : (complete s).cfg.pctClamp = true := hclamp
    rw [exec_setter rfl hset, effect, hlit, hclamp, reducedMult_clamped] at ht
    cases ht
    rfl
  · have hle : roundDiv r (226 * pct) 100 ≤ 113 := roundDiv_le r (by decide) (by decide) (by omega)
    exact multValue_of_le (L := lit) hle (by decide)

end SetterCommands

end Sys2Proof.Machine

/-! The steps-per-revolution registers (R25, R154, R155): what is written to SPR[k] is read there and nowhere else, and no statement
of a command reads it but the step count of STEP_ANGLE on stepper k. -/

namespace Sys2Proof.Machine

section SprRegisters
variable (k : Nat) (v : BitVec 16)

@[simp] theorem spr_setSprReg_same (s : State) : (s.setSprReg k v).spr k = v := by
  unfold State.spr State.setSprReg
  split <;> rfl

/-- A stepper above 1 has SPR[2] (R25; log entry 7). -/
theorem spr_setSprReg_other {j k : Nat} (h : ¬ (j = 1 ↔ k = 1)) (v : BitVec 16) (s : State) :
    (s.setSprReg k v).spr j = s.spr j := by
  unfold State.spr State.setSprReg
  by_cases hj : j = 1
  · rw [if_pos hj, if_pos hj, if_neg (by simpa [hj] using h)]
  · rw [if_neg hj, if_neg hj, if_pos (by simpa [hj] using h)]

@[simp] theorem setSprReg_spr (s : State) : s.setSprReg k (s.spr k) = s := by
  unfold State.spr State.setSprReg
  split <;> rfl

theorem setSprReg_setSprReg_same {j k : Nat} (h : j = 1 ↔ k = 1) (u v : BitVec 16) (s : State) :
    (s.setSprReg k v).setSprReg j u = s.setSprReg j u := by
  unfold State.setSprReg
  simp only [h]
  split <;> rfl

theorem setSprReg_setSprReg_other {j k : Nat} (h : ¬ (j = 1 ↔ k = 1)) (u v : BitVec 16) (s : State) :
    (s.setSprReg k v).setSprReg j u = (s.setSprReg j u).setSprReg k v := by
  unfold State.setSprReg
  by_cases hj : j = 1
  · have hk : k ≠ 1 := by simpa [hj] using h
    simp only [hj, hk, if_true, if_false]
  · have hk : k = 1 := by simpa [hj] using h
    simp only [hj, hk, if_true, if_false]

/-- An update that carries both registers along does not see SPR[k]. -/
theorem setSprReg_comm {g : State → State} (s : State)
    (hspr1 : ∀ s v, g { s with spr1 := v } = { g s with spr1 := v } := by intros; rfl)
    (hspr2 : ∀ s v, g { s with spr2 := v } = { g s with spr2 := v } := by intros; rfl) :
    g (s.setSprReg k v) = (g s).setSprReg k v := by
  unfold State.setSprReg
  split
  · exact hspr1 s v
  · exact hspr2 s v

theorem holdAt_setSprReg (p : Point) (s : State) : (s.setSprReg k v).holdAt p = (s.holdAt p).setSprReg k v :=
  holdAt_comm (setSprReg_seq k v) (fun s sq => setSprReg_comm k v (g := fun u => { u with seq := sq }) s |>.symm) p s

end SprRegisters

/-! `Unseen` cannot carry SPR[k], since a SET_SPR does not commute with a change of the register that it overwrites. So the statements
before a command's effect are followed here on their own, and the effect is the one place where SET_SPR parts from the others. -/

section SprUnread
variable (k : Nat) (v : BitVec 16)

/-- The flow with SPR[k] replaced in the state that it has reached. -/
def Flow.setSprReg (f : Flow) : Flow := f.map (State.setSprReg k v) (State.setSprReg k v)

theorem memWrite_setSprReg (p : Point) (w : RegWrite) (s : State) :
    memWrite p w (s.setSprReg k v) = (memWrite p w s).setSprReg k v := by
  rw [memWrite, memWrite, setSprReg_transport, holdAt_setSprReg]
  cases s.transport.head with
  | ok => exact congrArg Flow.on (setSprReg_comm k v (g := State.answered w .ok) s)
  | nack =>
    exact congrArg Flow.off (setSprReg_comm k v (g := fun u => raise (.transport w.reg) (u.answered w .nack)) s)
  | unanswered => rfl
  | unissued => rfl

theorem andThen_setSprReg {f : Flow} {g h : State → Flow} (hg : ∀ s, g (s.setSprReg k v) = (h s).setSprReg k v) :
    (f.setSprReg k v).andThen g = (f.andThen h).setSprReg k v := andThen_map hg

theorem memWrites_setSprReg (pt : Nat → Point) (ws : List RegWrite) :
    ∀ (j : Nat) (s : State), memWrites pt j ws (s.setSprReg k v) = (memWrites pt j ws s).setSprReg k v := by
  induction ws with
  | nil => exact fun _ _ => rfl
  | cons w ws ih =>
    intro j s
    rw [memWrites_cons, memWrites_cons, memWrite_setSprReg]
    exact andThen_setSprReg k v (ih (j + 1))

theorem bodyFrom_setSprReg {list : State → List RegWrite} (hl : ∀ s, list (s.setSprReg k v) = list s) (p : Point)
    (s : State) : bodyFrom list p (s.setSprReg k v) = (bodyFrom list p s).setSprReg k v := by
  rw [bodyFrom, hl]
  exact memWrites_setSprReg k v _ _ _ s

theorem ensureReady_setSprReg (p : Point) (s : State) :
    ensureReady p (s.setSprReg k v) = (ensureReady p s).setSprReg k v := by
  cases p with
  | wake j =>
    have ready (t : State) : (t.setSprReg k v).markReady = t.markReady.setSprReg k v := setSprReg_comm k v t
    cases hc : s.chipInit with
    | true => rw [ensureReady_ready _ hc, ensureReady_ready _ ((setSprReg_chipInit ..).trans hc)]; rfl
    | false =>
      rw [ensureReady_wake j hc, ensureReady_wake j ((setSprReg_chipInit ..).trans hc), setSprReg_cfg, memWrites_setSprReg]
      exact andThen_setSprReg k v fun t => congrArg Flow.on (ready t)
  | body j => rfl
  | dwell => rfl

theorem wakeFlow_setSprReg (i : Instr) (p : Point) (s : State) :
    (if wakes i (s.setSprReg k v) then ensureReady p (s.setSprReg k v) else .on (s.setSprReg k v)) =
      (if wakes i s then ensureReady p s else .on s).setSprReg k v := by
  rw [wakes, setSprReg_cfg, ← wakes, ensureReady_setSprReg]
  split <;> rfl

theorem dwell_setSprReg (s : State) : dwell (s.setSprReg k v) = (dwell s).setSprReg k v := by
  rw [dwell, dwell, setSprReg_dwells, holdAt_setSprReg]
  cases s.dwells.head with
  | elapses => exact congrArg Flow.on (setSprReg_comm k v s)
  | holds => rfl

theorem ownWrites_setSprReg (i : Instr) (s : State) : ownWrites i (s.setSprReg k v) = ownWrites i s := by
  unfold State.setSprReg
  cases i <;> split <;> rfl

theorem turnLoop_setSprReg (j : Nat) (dir : Dir) (n : Nat) :
    ∀ (p : Point) (s : State), turnLoop j dir n p (s.setSprReg k v) = (turnLoop j dir n p s).setSprReg k v := by
  have steps (t : State) : stepWriteList j (t.setSprReg k v) = stepWriteList j t :=
    ownWrites_setSprReg k v (.stepTurn j dir 0) t
  have advance (t : State) : turnAdvance dir (t.setSprReg k v) = (turnAdvance dir t).setSprReg k v := setSprReg_comm k v t
  induction n with
  | zero => exact fun _ _ => rfl
  | succ n ih =>
    intro p s
    rw [turnLoop_succ, turnLoop_succ, bodyFrom_setSprReg k v steps, andThen_setSprReg k v (dwell_setSprReg k v)]
    exact andThen_setSprReg k v fun t => by rw [advance, ih]

theorem turnSteps_setSprReg (j : Nat) (dir : Dir) (steps : Nat) (p : Point) (s : State) :
    turnSteps j dir steps p (s.setSprReg k v) = (turnSteps j dir steps p s).setSprReg k v := by
  have start : turnStart (s.setSprReg k v) = (turnStart s).setSprReg k v := setSprReg_comm k v s
  cases p with
  | wake _ => rw [turnSteps, start, turnLoop_setSprReg, turnSteps]
  | body _ => rw [turnSteps, setSprReg_stepI, turnLoop_setSprReg, turnSteps]
  | dwell => rw [turnSteps, setSprReg_stepI, turnLoop_setSprReg, turnSteps]

/-- A setter of SPR[k] itself overwrites what it held; every other command's effect carries it through. -/
theorem effect_setSprReg (i : Instr) (s : State) :
    effect i (s.setSprReg k v) = (effect i s).setSprReg k v ∨ effect i (s.setSprReg k v) = effect i s := by
  cases i with
  | setSpr j imm =>
    rw [effect, effect, setSprReg_cfg]
    by_cases h : j = 1 ↔ k = 1
    · exact .inr (setSprReg_setSprReg_same h ..)
    · exact .inl (setSprReg_setSprReg_other h ..)
  | _ => exact .inl (setSprReg_comm k v s)

theorem finish_setSprReg (f : Flow) : (f.setSprReg k v).finish = f.finish.setSprReg k v := by
  cases f with
  | on t => exact setSprReg_comm k v (g := complete) t
  | off t => rfl

/-- A command whose step count does not read SPR[k] runs the same whatever it holds, and carries it through or overwrites it. -/
theorem resume_setSprReg {i : Instr} (htotal : ∀ s, stepTotal i (s.setSprReg k v) = stepTotal i s) (p : Point) (s : State) :
    resume i p (s.setSprReg k v) = (resume i p s).setSprReg k v ∨ resume i p (s.setSprReg k v) = resume i p s := by
  rw [resume_eq, resume_eq, cmdFlow, cmdFlow, wakeFlow_setSprReg]
  cases h : turnOf i with
  | some kd =>
    refine .inl ?_
    rw [andThen_setSprReg k v fun t => ?_, finish_setSprReg]
    rw [ownFlow_turn h, ownFlow_turn h, htotal, turnSteps_setSprReg]
  | none =>
    have list := bodyFrom_setSprReg k v (ownWrites_setSprReg k v i) p
    rw [funext (ownFlow_list h p), ← andThen_assoc, ← andThen_assoc, andThen_setSprReg k v list]
    cases (if wakes i s then ensureReady p s else .on s).andThen (bodyFrom (ownWrites i) p) with
    | on t =>
      show complete (effect i (t.setSprReg k v)) = (complete (effect i t)).setSprReg k v ∨
        complete (effect i (t.setSprReg k v)) = complete (effect i t)
      obtain h | h := effect_setSprReg k v i t <;> rw [h]
      · exact .inl (finish_setSprReg k v (.on _))
      · exact .inr rfl
    | off t => exact .inl rfl

end SprUnread

/-- Only STEP_ANGLE on stepper `k` counts its steps by SPR[k] (R130, R135). -/
theorem stepTotal_setSprReg {L : Literals} {i : Instr} {k : Nat} (hL : L.nStepper ≤ 2) (hwf : i.WellFormed L) (hk1 : 1 ≤ k)
    (hk2 : k ≤ 2) (hne : ∀ dir imm, i ≠ .stepAngle k dir imm) (v : BitVec 16) (s : State) :
    stepTotal i (s.setSprReg k v) = stepTotal i s := by
  cases i with
  | stepAngle j dir imm =>
    obtain ⟨hj1, hj2⟩ := stepperExists_iff.mp hwf
    have hjk : j ≠ k := fun h => hne dir imm (h ▸ rfl)
    rw [stepTotal, stepTotal, angleSteps, angleSteps, setSprReg_cfg, spr_setSprReg_other (by omega)]
  | stepTurn j dir imm => rw [stepTotal, stepTotal, setSprReg_cfg]
  | _ => rfl

/-- Settles O37: the run with the other SPR[k] is the same run, with SPR[k] carried through it or, by a SET_SPR, overwritten. -/
theorem sprAffectsOnlyStepAngle : Obligations.SprAffectsOnlyStepAngle := by
  refine ⟨fun i k v s t t' hL hwf hk1 hk2 hne ht ht' => ?_, fun k imm s t hset ht => ?_⟩
  · have htotal := stepTotal_setSprReg hL hwf hk1 hk2 hne v
    have haccept : accept (encode i) (s.setSprReg k v) = (accept (encode i) s).setSprReg k v := setSprReg_comm k v s
    rw [exec_eq_resume] at ht ht'
    cases ht
    cases ht'
    rw [haccept]
    obtain h | h := resume_setSprReg k v htotal (.wake 0) (accept (encode i) s) <;> rw [h]
    · exact ⟨(setSprReg_setSprReg_same Iff.rfl ..).trans (setSprReg_spr ..), .inl (spr_setSprReg_same ..)⟩
    · exact ⟨setSprReg_spr .., .inr rfl⟩
  · rw [exec_setter rfl hset] at ht
    cases ht
    exact effect_log ..

end Sys2Proof.Machine

/-! ALL_OFF (R158, R159): the registers that it zeroes, under any parameters, and their images afterwards. -/

namespace Sys2Proof.Machine

section AllOff

/-- The registers that ALL_OFF zeroes under the parameters `L`, in its order (R158, R159). -/
def allOffRegistersOf (L : Literals) : List Byte :=
  ((List.range L.nMotor).flatMap fun j =>
    let base : Byte := BitVec.ofNat 8 (L.motorBase0 + L.motorStride * j)
    [base, base + 1, base + BitVec.ofNat 8 L.pairOfs, base + BitVec.ofNat 8 L.pairOfs + 1]) ++
  (List.range L.nServo).flatMap fun j =>
    let base : Byte := BitVec.ofNat 8 (L.servoBase0 + L.servoStride * j)
    [base, base + 1]

theorem allOffRegistersOf_lit : allOffRegistersOf lit = allOffRegisters := by decide

theorem allOffList_eq (L : Literals) : allOffList L = (allOffRegistersOf L).map fun r => ⟨r, 0⟩ := by
  rw [allOffRegistersOf, List.map_append, List.map_flatMap, List.map_flatMap]
  rfl

/-- Where every write has the value `v`, each register written reads `v`, however often it was written (R58). -/
theorem ext_wrote_of_const {v r : Byte} {regs : List Byte} (hr : r ∈ regs) (s : State) :
    (s.wrote (regs.map fun q => ⟨q, v⟩)).ext r = .among [v] := by
  induction regs generalizing s with
  | nil => cases hr
  | cons q regs ih =>
    rw [List.map_cons, wrote_cons]
    by_cases hmem : r ∈ regs
    · exact ih hmem _
    · obtain rfl : r = q := (List.mem_cons.mp hr).resolve_right hmem
      rw [ext_wrote_other, ext_answered_ok]
      simpa using fun a ha => ne_of_mem_of_not_mem ha hmem

/-- Settles O42: the command's own list is those registers' zeroes in every state. -/
theorem allOffZeroesThirtyTwoRegisters : Obligations.AllOffZeroesThirtyTwoRegisters := by
  intro s motor servo pairOfs regs ws
  refine ⟨fun hok => ⟨?_, fun r hr => ?_⟩, fun hstd => ?_⟩
  · exact congrArg Host.Outcome.next (command_completes (list := fun t => allOffList t.cfg.lit) (allOffList_eq _) hok)
  · have written : (s.completedAfter (wakePart s ++ ws)).ext r = (s.wrote (wakePart s ++ ws)).ext r := ext_congr rfl rfl _
    rw [written, wrote_append, ext_wrote_of_const hr]
  · exact (congrArg allOffRegistersOf hstd).trans allOffRegistersOf_lit

end AllOff

end Sys2Proof.Machine

/-! An illegal word (R172, R78): it raises IllegalCommand and does nothing else. -/

namespace Sys2Proof.Machine

/-- An IDLE block takes an illegal word off the channel and raises IllegalCommand before any other action (R36, R172). -/
theorem step_illegal {s : State} {w : Word} {rest : List HostInput} {e : Illegal} (hshared : s.shared = false)
    (hseq : s.seq = .idle) (hhost : s.host = .cmd w :: rest) (hd : decode s.cfg.lit w = .error e) :
    step s = .next (raise (.illegal w) (accept w { s with host := rest })) := by
  rw [step, sequencerStep, hshared, if_neg Bool.false_ne_true]
  simp only [hseq, idleStep, hhost, acceptWord, hd]

/-- A word that decodes to no command breaks a rule (R78). -/
theorem exists_illegal {L : Literals} {w : Word} (h : ∀ i, decode L w ≠ .ok i) : ∃ e, decode L w = .error e := by
  cases hd : decode L w with
  | ok i => exact absurd hd (h i)
  | error e => exact ⟨e, rfl⟩

/-- Settles O5: a word that no row covers decodes to no command, and a word that decodes to none is raised at once. -/
theorem illegalWordRaisesIllegalCommand : Obligations.IllegalWordRaisesIllegalCommand := by
  intro s w rest hshared hseq hhost hword
  have hno : ∀ i, decode s.cfg.lit w ≠ .ok i := by
    obtain hno | ⟨hstd, huncovered⟩ := hword
    · exact hno
    · intro i hd
      obtain ⟨r, hr, hcovers⟩ := (Laws.legal_iff_covered w).mp ⟨i, hstd ▸ hd⟩
      exact absurd hcovers (by simp [huncovered r hr])
  obtain ⟨e, hd⟩ := exists_illegal hno
  exact step_illegal hshared hseq hhost hd

end Sys2Proof.Machine

/-! A command that is no turn, aborted at a NACK on one of its own writes (R171, R174), and the image that an abort leaves
(R58). -/

namespace Sys2Proof.Machine

section OwnNack

theorem ownWrites_woken (i : Instr) (s : State) : ownWrites i (s.woken i) = ownWrites i s := by
  cases i <;> rfl

/-- The end of a command at a NACKed write of its own (R174). -/
theorem raise_woken (i : Instr) (vs : List RegWrite) (v : RegWrite) (s : State) :
    raise (.transport v.reg) (((s.woken i).wrote vs).answered v .nack) =
      { s.abortedAt (wakePart s ++ vs) v with chipInit := true } := by
  simp [State.abortedAt, State.woken, raise, State.answered, State.wrote, State.markReady, accept, State.writeEvent,
    Error.result, Error.failReg, Nat.add_assoc]

/-- A command that is no turn aborts at the first of its own writes that is NACKed, EnsureReady being over (R103, R174). -/
theorem exec_own_nack {i : Instr} {s : State} {vs us : List RegWrite} {v : RegWrite} (hwrites : writesRegisters i = true)
    (hturn : turnOf i = none) (hown : ownWrites i s = vs ++ v :: us)
    (hok : s.transport.Yields ((wakePart s).length + vs.length) .ok)
    (hnack : s.transport.at ((wakePart s).length + vs.length) = .nack) :
    exec i s = .next { s.abortedAt (wakePart s ++ vs) v with chipInit := true } := by
  obtain ⟨hwake, hvs⟩ := (yields_add s.transport).mp hok
  have hw : wakes i (accept (encode i) s) = true := by simp [wakes, hwrites]
  have hready : ensureReady (.wake 0) (accept (encode i) s) = .on (s.woken i) := ensureReady_ok hwake
  have hbody : bodyFrom (ownWrites i) (.wake 0) (s.woken i) =
      .off (raise (.transport v.reg) (((s.woken i).wrote vs).answered v .nack)) := by
    rw [bodyFrom, ownWrites_woken, hown]
    exact memWrites_nack hvs ((script_at_drop ..).trans hnack)
  rw [exec_eq_resume, resume_of_wakes hw, registerCommand, hready, andThen_on, ownFlow_list hturn, hbody, andThen_off,
    finish_off, raise_woken]

/-- An abort leaves the image of the NACKed write's register as before or as the value written (R58). -/
theorem ext_abortedAt (vs : List RegWrite) (v : RegWrite) (s : State) :
    (s.abortedAt vs v).ext v.reg = ((s.wrote vs).ext v.reg).orValue v.val := by
  have hlog : (s.abortedAt vs v).log = ((s.wrote vs).answered v .nack).log := rfl
  rw [ext_congr hlog rfl, ext_answered_failed (by decide)]

/-- A failed write makes no unknown image known, and no known one unknown (R58). -/
theorem orValue_eq_any_iff (img : RegImage) (v : Byte) : img.orValue v = .any ↔ img = .any := by
  cases img with
  | any => exact Iff.rfl
  | among vs =>
    rw [RegImage.orValue]
    split <;> simp

/-- Settles O58: the NACK ends the command at that write, after EnsureReady and the writes before it. -/
theorem ownWriteNackKeepsEverythingElse : Obligations.OwnWriteNackKeepsEverythingElse :=
  ⟨fun i _ _ _ _ hwrites hturn => exec_own_nack hwrites ((turnOf_none_iff i).mpr hturn),
    fun s vs v => ext_abortedAt vs v s, fun img v b => ⟨admits_orValue img v b, orValue_eq_any_iff img v⟩⟩

end OwnNack

end Sys2Proof.Machine

/-! An abort keeps every register but CHIP_INIT, which is 1 only where EnsureReady had completed (R22, R102, R174). -/

namespace Sys2Proof.Machine

/-- A hold leaves a BUSY block BUSY (R21). -/
theorem holdAt_seq_ne_idle (p : Point) {s : State} (h : s.seq ≠ .idle) : (s.holdAt p).seq ≠ .idle := by
  obtain ⟨w, q, hseq⟩ := (busy_iff s).mp ((busy_iff_ne_idle s).mpr h)
  simp [holdAt_busy w p q s hseq]

section AbortKeeps

/-- A command that ends with RESULT TRANSPORT was aborted at a NACKed write: it neither completed nor is held (R174). -/
theorem resume_aborted {i : Instr} {p : Point} {s : State} (hs : s.seq ≠ .idle) (hidle : (resume i p s).seq = .idle)
    (hres : (resume i p s).result = .transport) :
    ∃ (u : State) (w : RegWrite), Underway s u ∧ resume i p s = raise (.transport w.reg) (u.answered w .nack) := by
  obtain ⟨u, hu, h | ⟨w, h⟩ | ⟨q, h⟩⟩ := resume_ends i p s
  · rw [h] at hres
    cases hres
  · exact ⟨u, w, hu, h⟩
  · rw [h] at hidle
    exact absurd hidle (holdAt_seq_ne_idle q (hu.seq ▸ hs))

/-- No wake write before the last one is the mode-1 write (R101). -/
theorem mode1_not_mem_of_wakeWrites {vs us : List RegWrite} {w : RegWrite} (h : wakeWrites lit = vs ++ w :: us) :
    (⟨lit.regMode1, lit.mode1Wake⟩ : RegWrite) ∉ vs := by
  have hlast : (wakeWrites lit).getLast? = some ⟨lit.regMode1, lit.mode1Wake⟩ := by decide
  have hnodup : (vs ++ w :: us).Nodup := h ▸ (by decide : (wakeWrites lit).Nodup)
  rw [h, List.getLast?_append_cons] at hlast
  exact fun hmem => List.disjoint_of_nodup_append hnodup hmem (List.mem_of_getLast? hlast)

theorem writeEvent_injective (s : State) (q : Resp) : Function.Injective fun w => s.writeEvent w q := by
  rintro ⟨r, v⟩ ⟨r', v'⟩ h
  simpa [State.writeEvent] using h

/-- Where EnsureReady does not go on, the mode-1 write has not been answered OK (R101, R102). -/
theorem ensureReady_off {s t : State} (hlit : s.cfg.lit = lit) (h : ensureReady (.wake 0) s = .off t) :
    s.mode1Event ∉ newEvents s t := by
  obtain ⟨-, hf⟩ | ⟨vs, w, us, hpart, hc, -, hf⟩ := ensureReady_cases s
  · cases hf.symm.trans h
  · rw [wakePart_cold hc, hlit] at hpart
    have hvs : s.mode1Event ∉ vs.map fun v => s.writeEvent v .ok :=
      mt (List.mem_map_of_injective (writeEvent_injective s .ok)).mp (hlit ▸ mode1_not_mem_of_wakeWrites hpart)
    obtain ⟨-, hf⟩ | ⟨-, hf⟩ := hf
    · obtain rfl := Flow.off.inj (hf.symm.trans h)
      rw [newEvents_of_log (es := s.writeEvent w .nack :: (vs.map fun v => s.writeEvent v .ok).reverse) rfl]
      simpa [State.mode1Event, State.writeEvent] using hvs
    · obtain rfl := Flow.off.inj (hf.symm.trans h)
      rw [newEvents_of_log (es := (vs.map fun v => s.writeEvent v .ok).reverse) (holdAt_log ..), List.reverse_reverse]
      exact hvs

/-- A command that runs EnsureReady has CHIP_INIT 1 once its mode-1 write was answered OK (R22, R101). -/
theorem chipInit_of_mode1Event {i : Instr} {s : State} (hw : wakes i s = true) (hlit : s.cfg.lit = lit)
    (h : s.mode1Event ∈ newEvents s (resume i (.wake 0) s)) : (resume i (.wake 0) s).chipInit = true := by
  rw [resume_of_wakes hw, registerCommand] at h ⊢
  cases hf : ensureReady (.wake 0) s with
  | on u =>
    have hu : u.chipInit = true := (ensureReady_on hf).2 ▸ markReady_chipInit _
    exact finish_kept chipInit_kept (ownFlow_kept chipInit_kept (fun _ _ _ _ => trivial)
      (fun v hv => (effect_chipInit i v).trans hv) _ hu)
  | off t =>
    rw [hf] at h
    exact absurd h (ensureReady_off hlit hf)

/-- A command that runs EnsureReady ends with CHIP_INIT 1 exactly when it was 1 before or its mode-1 write was answered OK
(R22, R101, R102). -/
theorem chipInit_iff_mode1Event {i : Instr} {s : State} (hw : wakes i s = true) (hlit : s.cfg.lit = lit) :
    (resume i (.wake 0) s).chipInit = true ↔
      s.chipInit = true ∨ s.mode1Event ∈ newEvents s (resume i (.wake 0) s) := by
  refine ⟨fun ht => ?_, fun h => h.elim (resume_chipInit i _) (chipInit_of_mode1Event hw hlit)⟩
  cases hc : s.chipInit with
  | true => exact .inl rfl
  | false =>
    have hrange : s.cfg.lit.angleMin < s.cfg.lit.angleMax := hlit ▸ by decide
    exact .inr ((runs_accepted i s hrange).mode1_newEvents (firstPoint_silent ..) ((firstPoint_chipInit ..).trans hc) ht)

/-- Only a command that runs EnsureReady can be aborted: a setter without it completes (R174; 93 I5). -/
theorem wakes_of_aborted {i : Instr} {s t : State} (h : exec i s = .next t) (hres : t.result = .transport) :
    wakes i s = true := by
  by_contra hno
  obtain ⟨hi, hset⟩ := Bool.or_eq_false_iff.mp (Bool.eq_false_iff.mpr hno)
  obtain rfl := Host.Outcome.next.inj ((exec_setter hi hset).symm.trans h)
  rw [← complete_effect] at hres
  cases hres

/-- Settles O60: the NACK comes before any register of a setter is written, and EnsureReady sets CHIP_INIT after its last
write only. -/
theorem abortKeepsEveryRegister : Obligations.AbortKeepsEveryRegister := by
  intro i s t ht hidle hres
  have hw := wakes_of_aborted ht hres
  rw [exec_eq_resume] at ht
  cases ht
  let v := accept (encode i) s
  obtain ⟨u, w, hu, h⟩ := resume_aborted (s := v) (by simp [v]) hidle hres
  refine ⟨?_, resume_host .., resume_cfg .., fun hstd _ => ?_⟩
  · rw [h]
    exact ⟨hu.trimMult, hu.trimZero, hu.spr1, hu.spr2⟩
  · have hlit : v.cfg.lit = lit := hstd
    have hmode1 : Event.write s.cfg.devAddr.byte 0x00 0x01 .ok = v.mode1Event := by
      rw [State.mode1Event, hlit]
      rfl
    rw [hmode1]
    exact chipInit_iff_mode1Event (s := v) hw hlit

end AbortKeeps

end Sys2Proof.Machine

/-! The abort is precise (R171, R174): a command that is aborted, beside the same command where the transport answers every write
OK. The two runs go through the same states up to the NACKed write. -/

namespace Sys2Proof.Machine

section AllOk

/-- The transport replaced by one that answers every write OK. -/
def State.allOk (s : State) : State := s.withScripts ⟨[], .ok⟩ s.dwells

theorem allOk_yields (n : Nat) (s : State) : s.allOk.transport.Yields n .ok := fun _ _ => rfl

theorem allOk_wrote (ws : List RegWrite) (s : State) : s.allOk.wrote ws = (s.wrote ws).allOk := by
  simp [State.wrote, State.allOk, State.withScripts, Script.drop, State.writeEvent]

/-- The run `f` of a stretch of a command beside the run `g` of the same stretch where every write is answered OK: where `f` goes
on, so does `g`, to the same state but for the transport; where `f` is aborted, `g` has emitted the same events, the NACKed
write being OK; a run that is held (SEQ is not IDLE) need not agree. -/
inductive Precise : Flow → Flow → Prop where
  | on {u : State} (h : u.seq ≠ .idle) : Precise (.on u) (.on u.allOk)
  | nacked {u : State} {g : Flow} (w : RegWrite) (h : g.state.TraceFrom (u.writeEvent w .ok :: u.log)) :
      Precise (.off (raise (.transport w.reg) (u.answered w .nack))) g
  | held {u : State} {g : Flow} (h : u.seq ≠ .idle) : Precise (.off u) g

/-- Two runs side by side stay so over the next statements, which remove no event. -/
theorem Precise.andThen {f g : Flow} {k : State → Flow} (h : Precise f g)
    (hk : ∀ u, u.seq ≠ .idle → Precise (k u) (k u.allOk))
    (hlog : ∀ l u, u.TraceFrom l → (k u).state.TraceFrom l) : Precise (f.andThen k) (g.andThen k) := by
  cases h with
  | on h => exact hk _ h
  | nacked w h => exact .nacked w (andThen_kept h (hlog _))
  | held h => exact .held h

theorem memWrites_precise (pt : Nat → Point) (k : Nat) (ws : List RegWrite) {s : State} (h : s.seq ≠ .idle) :
    Precise (memWrites pt k ws s) (memWrites pt k ws s.allOk) := by
  have hall : memWrites pt k ws s.allOk = .on (s.wrote ws).allOk := by
    rw [memWrites_ok pt ws k _ (allOk_yields _ s), allOk_wrote]
  rw [hall]
  obtain ⟨-, hf⟩ | ⟨vs, w, us, rfl, -, ⟨-, hf⟩ | ⟨-, hf⟩⟩ := memWrites_cases pt ws k s
  · exact hf ▸ .on (u := s.wrote ws) h
  · rw [hf]
    refine .nacked w ?_
    rw [wrote_append, wrote_cons]
    exact List.suffix_append _ _
  · exact hf ▸ .held (holdAt_seq_ne_idle (s := s.wrote vs) _ h)

theorem bodyFrom_precise {list : State → List RegWrite} (p : Point) {s : State} (hl : list s.allOk = list s)
    (h : s.seq ≠ .idle) : Precise (bodyFrom list p s) (bodyFrom list p s.allOk) := by
  rw [bodyFrom, bodyFrom, hl]
  exact memWrites_precise _ _ _ h

theorem dwell_precise {s : State} (h : s.seq ≠ .idle) : Precise (dwell s) (dwell s.allOk) := by
  cases hd : s.dwells.head with
  | elapses =>
    rw [dwell_elapses hd, dwell_elapses (s := s.allOk) hd]
    exact .on (u := s.dwelt) h
  | holds =>
    rw [dwell_holds hd]
    exact .held (holdAt_seq_ne_idle _ h)

theorem ensureReady_precise (p : Point) {s : State} (h : s.seq ≠ .idle) :
    Precise (ensureReady p s) (ensureReady p s.allOk) := by
  cases p with
  | wake k =>
    cases hc : s.chipInit with
    | true =>
      rw [ensureReady_ready _ hc, ensureReady_ready (s := s.allOk) _ hc]
      exact .on h
    | false =>
      rw [ensureReady_wake k hc, ensureReady_wake (s := s.allOk) k hc]
      exact (memWrites_precise _ _ _ h).andThen (fun u hu => .on (u := u.markReady) hu) fun _ _ hu => hu
  | body k => exact .on h
  | dwell => exact .on h

theorem turnLoop_precise (k : Nat) (dir : Dir) (n : Nat) (p : Point) {s : State} (h : s.seq ≠ .idle) :
    Precise (turnLoop k dir n p s) (turnLoop k dir n p s.allOk) := by
  induction n generalizing p s with
  | zero => exact .on h
  | succ n ih =>
    rw [turnLoop_succ, turnLoop_succ]
    have hstep : Precise ((bodyFrom (stepWriteList k) p s).andThen dwell)
        ((bodyFrom (stepWriteList k) p s.allOk).andThen dwell) :=
      (bodyFrom_precise p rfl h).andThen (fun _ => dwell_precise) fun l _ => dwell_kept (traceFrom_kept l)
    exact hstep.andThen (fun u hu => ih (.body 0) (s := turnAdvance dir u) hu) fun l u hu =>
      turnLoop_kept (traceFrom_kept l) (fun _ _ _ _ => trivial) n (.body 0) (turnAdvance dir u) hu

/-- A command's own statements, from their start. -/
theorem ownFlow_precise (i : Instr) {s : State} (h : s.seq ≠ .idle) :
    Precise (ownFlow i (.wake 0) s) (ownFlow i (.wake 0) s.allOk) := by
  cases hturn : turnOf i with
  | none =>
    rw [ownFlow_list hturn, ownFlow_list hturn]
    refine (bodyFrom_precise _ (ownWrites_withScripts ..) h).andThen (fun u hu => ?_) fun l u hu =>
      traceFrom_of_log_eq (effect_log i u) hu
    have heffect : effect i u.allOk = (effect i u).allOk :=
      effect_comm (g := State.allOk) (fun _ => rfl) (fun _ _ => rfl) (fun _ _ => rfl) (fun _ _ => rfl) (fun _ _ => rfl) i u
    rw [heffect]
    exact .on (effect_seq i u ▸ hu)
  | some kd =>
    have htotal : stepTotal i s.allOk = stepTotal i s := stepTotal_withScripts ..
    rw [ownFlow_turn hturn, ownFlow_turn hturn, htotal]
    exact turnLoop_precise _ _ _ _ (s := turnStart s) h

theorem cmdFlow_precise (i : Instr) {s : State} (h : s.seq ≠ .idle) :
    Precise (cmdFlow i (.wake 0) s) (cmdFlow i (.wake 0) s.allOk) := by
  have hwake : Precise (if wakes i s then ensureReady (.wake 0) s else .on s)
      (if wakes i s then ensureReady (.wake 0) s.allOk else .on s.allOk) := by
    split
    · exact ensureReady_precise _ h
    · exact .on h
  exact hwake.andThen (fun u hu => ownFlow_precise i hu) fun l u hu =>
    ownFlow_kept (traceFrom_kept l) (fun _ _ _ _ => trivial) (fun v hv => traceFrom_of_log_eq (effect_log i v) hv) _ hu

theorem finish_log (f : Flow) : f.finish.log = f.state.log := by
  cases f <;> rfl

/-- A command that ends with RESULT TRANSPORT was aborted at a write that the transport which answers OK gets too, after the
same events (R174). -/
theorem resume_nacked {i : Instr} {s : State} (hs : s.seq ≠ .idle) (hidle : (resume i (.wake 0) s).seq = .idle)
    (hres : (resume i (.wake 0) s).result = .transport) :
    ∃ (u : State) (w : RegWrite), resume i (.wake 0) s = raise (.transport w.reg) (u.answered w .nack) ∧
      (resume i (.wake 0) s.allOk).TraceFrom (u.writeEvent w .ok :: u.log) := by
  have hprec := cmdFlow_precise i hs
  unfold State.TraceFrom
  rw [resume_eq] at hidle hres ⊢
  rw [resume_eq, finish_log]
  cases hf : cmdFlow i (.wake 0) s with
  | on u =>
    rw [hf] at hres
    cases hres
  | off t =>
    rw [hf] at hprec hidle
    cases hprec with
    | nacked w h => exact ⟨_, w, rfl, h⟩
    | held h => exact absurd hidle h

/-- A list that ends `a :: m`, and also a list that `b :: m` ends, with `b` another item than `a`, ends `m`. -/
theorem suffix_of_suffix_cons {α : Type} {l m n : List α} {a b : α} (hab : a ≠ b) (ha : l <:+ a :: m) (hb : b :: m <:+ n)
    (hn : l <:+ n) : l <:+ m := by
  refine (List.suffix_cons_iff.mp ha).resolve_left ?_
  rintro rfl
  have heq := (List.suffix_of_suffix_length_le hn hb le_rfl).eq_of_length rfl
  exact hab (List.cons.inj heq).1

/-- The write at which a command was aborted is one that this command has made: the trace before the command stands before it. -/
theorem resume_nacked_since {i : Instr} {s u : State} {w : RegWrite}
    (h : resume i (.wake 0) s = raise (.transport w.reg) (u.answered w .nack))
    (hok : (resume i (.wake 0) s.allOk).TraceFrom (u.writeEvent w .ok :: u.log)) : s.log <:+ u.log := by
  have hnack : (resume i (.wake 0) s).TraceFrom s.log := resume_traceFrom i _ (List.suffix_refl s.log)
  have hall : (resume i (.wake 0) s.allOk).TraceFrom s.log := resume_traceFrom i _ (List.suffix_refl s.log)
  rw [h] at hnack
  exact suffix_of_suffix_cons (by simp [State.writeEvent]) hnack hok hall

/-- Settles O43: the run whose writes are all answered OK has emitted, up to the NACKed write, the same events. -/
theorem abortIsPrecise : Obligations.AbortIsPrecise := by
  intro i s t tOk ht htOk hidle hres
  rw [exec_eq_resume] at ht htOk
  cases ht
  cases htOk
  let v := accept (encode i) s
  obtain ⟨u, w, hu, hok⟩ := resume_nacked (i := i) (s := v) (by simp [v]) hidle hres
  have hcfg : u.cfg = s.cfg := (congrArg State.cfg hu).symm.trans (resume_cfg i (.wake 0) v)
  obtain ⟨es, hes⟩ : s.log <:+ u.log := resume_nacked_since (s := v) hu hok
  obtain ⟨rest, hrest⟩ := hok
  rw [State.writeEvent, hcfg] at hrest
  refine ⟨es.reverse, rest.reverse, w.reg, w.val, ?_, ?_, congrArg State.failReg hu⟩
  · exact (congrArg List.reverse hrest).symm.trans (by simp [State.trace, ← hes])
  · exact (congrArg State.trace hu).trans (by simp [State.trace, ← hes, hcfg, State.writeEvent])

end AllOk

end Sys2Proof.Machine

/-! Where the environment holds the block nowhere (R204), no stretch of a command is held: it goes on, or it is aborted at a
NACKed write. -/

namespace Sys2Proof.Machine

/-- The environment holds the block nowhere: the transport answers every write and every dwell elapses (R204). -/
structure State.Unheld (s : State) : Prop where
  writes : ∀ k, s.transport.at k = .ok ∨ s.transport.at k = .nack
  dwells : ∀ k, s.dwells.at k = .elapses

/-- The environment goes on answering as it did, however many of its answers are used. -/
theorem State.Unheld.of_drop {s t : State} (h : s.Unheld) (m n : Nat) (htr : t.transport = s.transport.drop m)
    (hdw : t.dwells = s.dwells.drop n) : t.Unheld where
  writes k := by rw [htr, script_at_drop]; exact h.writes _
  dwells k := by rw [hdw, script_at_drop]; exact h.dwells _

theorem State.Unheld.of_eq {s t : State} (h : s.Unheld) (htr : t.transport = s.transport) (hdw : t.dwells = s.dwells) :
    t.Unheld :=
  h.of_drop 0 0 (htr.trans (script_drop_zero _).symm) (hdw.trans (script_drop_zero _).symm)

/-- A stretch of a command that is not held: it goes on, still held nowhere, or it was aborted at a NACKed write. -/
inductive Flow.Unheld : Flow → Prop where
  | on {u : State} (h : u.Unheld) : Flow.Unheld (.on u)
  | nacked (reg : Byte) (u : State) : Flow.Unheld (.off (raise (.transport reg) u))

theorem Flow.Unheld.andThen {f : Flow} {k : State → Flow} (hf : f.Unheld) (hk : ∀ u : State, u.Unheld → (k u).Unheld) :
    (f.andThen k).Unheld := by
  cases hf with
  | on h => exact hk _ h
  | nacked reg u => exact .nacked reg u

theorem memWrites_unheld (pt : Nat → Point) (k : Nat) (ws : List RegWrite) {s : State} (h : s.Unheld) :
    (memWrites pt k ws s).Unheld := by
  obtain ⟨-, hf⟩ | ⟨vs, w, us, -, -, ⟨-, hf⟩ | ⟨hheld, -⟩⟩ := memWrites_cases pt ws k s
  · exact hf ▸ .on (h.of_drop ws.length 0 rfl (script_drop_zero _).symm)
  · exact hf ▸ .nacked _ _
  · have hans := h.writes vs.length
    obtain hat | hat := hheld <;> simp [hat] at hans

theorem dwell_unheld {s : State} (h : s.Unheld) : (dwell s).Unheld := by
  rw [dwell_elapses (h.dwells 0)]
  exact .on (h.of_drop 0 1 (script_drop_zero _).symm rfl)

theorem ensureReady_unheld (p : Point) {s : State} (h : s.Unheld) : (ensureReady p s).Unheld := by
  cases p with
  | wake k =>
    cases hc : s.chipInit with
    | true => exact ensureReady_ready _ hc ▸ .on h
    | false =>
      rw [ensureReady_wake k hc]
      exact (memWrites_unheld _ _ _ h).andThen fun u hu => .on (hu.of_eq (markReady_transport u) (markReady_dwells u))
  | body k => exact .on h
  | dwell => exact .on h

theorem turnLoop_unheld (k : Nat) (dir : Dir) (n : Nat) (p : Point) {s : State} (h : s.Unheld) :
    (turnLoop k dir n p s).Unheld := by
  induction n generalizing p s with
  | zero => exact .on h
  | succ n ih =>
    rw [turnLoop_succ]
    exact ((memWrites_unheld _ _ _ h).andThen fun _ => dwell_unheld).andThen fun u hu =>
      ih _ (hu.of_eq (turnAdvance_transport dir u) (turnAdvance_dwells dir u))

theorem turnSteps_unheld (k : Nat) (dir : Dir) (steps : Nat) (p : Point) {s : State} (h : s.Unheld) :
    (turnSteps k dir steps p s).Unheld := by
  cases p with
  | wake j => exact turnLoop_unheld k dir _ _ (h.of_eq (turnStart_transport s) (turnStart_dwells s))
  | body j => exact turnLoop_unheld k dir _ _ h
  | dwell => exact turnLoop_unheld k dir _ _ h

@[simp] theorem effect_transport (i : Instr) (s : State) : (effect i s).transport = s.transport := by
  cases i with
  | setSpr k imm => exact setSprReg_transport ..
  | _ => rfl

@[simp] theorem effect_dwells (i : Instr) (s : State) : (effect i s).dwells = s.dwells := by
  cases i with
  | setSpr k imm => exact setSprReg_dwells ..
  | _ => rfl

theorem ownFlow_unheld (i : Instr) (p : Point) {s : State} (h : s.Unheld) : (ownFlow i p s).Unheld := by
  cases hturn : turnOf i with
  | none =>
    rw [ownFlow_list hturn]
    exact (memWrites_unheld _ _ _ h).andThen fun u hu => .on (hu.of_eq (effect_transport i u) (effect_dwells i u))
  | some kd =>
    rw [ownFlow_turn hturn]
    exact turnSteps_unheld _ _ _ p h

theorem cmdFlow_unheld (i : Instr) (p : Point) {s : State} (h : s.Unheld) : (cmdFlow i p s).Unheld := by
  have hwake : (if wakes i s then ensureReady p s else .on s).Unheld := by
    split
    · exact ensureReady_unheld p h
    · exact .on h
  exact hwake.andThen fun _ => ownFlow_unheld i p

/-- A stretch that is not held leaves the command ended: completed, or aborted with TransportError (R174, R176). -/
theorem Flow.Unheld.finish_ends {f : Flow} (h : f.Unheld) :
    f.finish.seq = .idle ∧ (f.finish.result = .ok ∨ f.finish.result = .transport) := by
  cases h with
  | @on u _ => exact ⟨complete_seq u, .inl (complete_result u)⟩
  | nacked reg u => exact ⟨raise_seq _ u, .inr (raise_result _ u)⟩

/-- Settles O45: no control point holds the command's flow, so its end is a completion or an abort. -/
theorem answeredCommandsEnd : Obligations.AnsweredCommandsEnd := by
  intro i s hwrites hdwells
  have haccepted : (accept (encode i) s).Unheld := ⟨hwrites, hdwells⟩
  refine ⟨_, exec_eq_resume i s, ?_⟩
  rw [resume_eq]
  exact (cmdFlow_unheld i _ haccepted).finish_ends

end Sys2Proof.Machine

/-! A reset (R190, R191): the block takes its reset values, and the trace gains the LOST record of an outstanding write or
nothing. -/

namespace Sys2Proof.Machine

/-- An IDLE block has no write outstanding (R37). -/
theorem outstanding_of_idle {s : State} (h : s.seq = .idle) : s.outstanding = none := by
  have hcur : s.currentWrite = none := by rw [State.currentWrite, h]
  unfold State.outstanding
  split
  · rfl
  · exact hcur
  · exact hcur
  · exact hcur

/-- The step in which the host asserts `rst` (R190): the block is reset, an outstanding write having ended LOST. -/
theorem step_reset {s : State} {strap : Option DevAddr} {rest : List HostInput} (hshared : s.shared = false)
    (hhost : s.host = .rst strap :: rest) :
    (∃ w, s.outstanding = some w ∧
      step s = .next (resetBlock strap (({ s with host := rest } : State).answered w .lost))) ∨
    (s.outstanding = none ∧
      ∃ tr dw, step s = .next (resetBlock strap { s with host := rest, transport := tr, dwells := dw })) := by
  obtain ⟨t, ht⟩ := step_next_of_not_shared hshared
  rw [ht]
  obtain ⟨-, ⟨-, hh, -⟩ | ⟨_, _, hseq, hh, rfl⟩ | ⟨_, _, _, -, hh, -⟩ | ⟨_, _, _, -, hh, -⟩ | ⟨_, _, -, hno, -⟩ |
    ⟨_, _, _, _, -, hh, rfl⟩⟩ := step_cases ht
  · cases hhost.symm.trans hh
  · cases hhost.symm.trans hh
    exact .inr ⟨outstanding_of_idle hseq, s.transport, s.dwells, rfl⟩
  · cases hhost.symm.trans hh
  · cases hhost.symm.trans hh
  · exact absurd hhost (hno strap rest)
  · cases hhost.symm.trans hh
    obtain ⟨w, ho, he⟩ | ⟨ho, tr, dw, he⟩ := abandon_cases strap { s with host := rest }
    · exact .inl ⟨w, ho, congrArg _ he⟩
    · exact .inr ⟨ho, tr, dw, congrArg _ he⟩

/-- The image of any register after a write that failed (R58). -/
theorem ext_answered_of_failed {q : Resp} (h : q ≠ .ok) (w : RegWrite) (s : State) (r : Byte) :
    (s.answered w q).ext r = if w.reg = r then (s.ext r).orValue w.val else s.ext r := by
  split
  · next hr => exact hr ▸ ext_answered_failed h w s
  · next hr => exact ext_answered_other hr

/-- Settles O52: the step is a reset of the block, after the LOST record of the write that is outstanding, if there is one. -/
theorem resetAbandonsTheCommand : Obligations.ResetAbandonsTheCommand := by
  unfold Obligations.ResetAbandonsTheCommand
  intro s strap rest hshared hhost
  obtain ⟨w, ho, ht⟩ | ⟨ho, tr, dw, ht⟩ := step_reset hshared hhost
  · rw [ho]
    exact ⟨_, ht, resetBlock_atReset .., rfl, rfl, ext_answered_of_failed (by decide) w { s with host := rest }⟩
  · rw [ho]
    exact ⟨_, ht, resetBlock_atReset .., rfl, rfl, fun _ => rfl⟩

end Sys2Proof.Machine

/-! The words that 30_encoding.md section 5 writes out: a legal one is the encoding of its command, and an illegal one has an OP
that selects no form or breaks a must-be-0 rule of its OP's form (R72 to R78). -/

namespace Sys2Proof.Laws

section SpecWords

/-- This hardware decodes the word of a command that exists to that command (R80). -/
theorem decode_of_encode_eq {i : Instr} {w : Word} (hwf : i.WellFormed Machine.lit) (he : encode i = w) :
    decode Machine.lit w = .ok i :=
  he ▸ decodeOfEncodeIsTheCommand Machine.lit i (by decide) (by decide) (by decide) (by decide) hwf

theorem accept_of_violation {f : Form} {w : Word} {e : Illegal} (hv : f.violation w = some e) (i : Instr) :
    f.accept w i = .error e := by
  rw [Form.accept, hv]

/-- A word whose OP selects no form is refused for its OP (R71). -/
theorem decode_of_formAt_none {L : Literals} {w : Word} (hw : w.toNat < 2 ^ L.cmdWidth) (hf : formAt L (opOf w) = none) :
    decode L w = .error .opcode := by
  rw [decode, if_neg (Nat.not_le_of_lt hw)]
  split <;> simp_all [formAt]

/-- A word is refused for the must-be-0 rule that it breaks in the form of its OP (R72, R73, R76). -/
theorem decode_of_violation {L : Literals} {w : Word} {f : Form} {e : Illegal} (hw : w.toNat < 2 ^ L.cmdWidth)
    (hf : formAt L (opOf w) = some f) (hv : f.violation w = some e) : decode L w = .error e := by
  rw [decode, if_neg (Nat.not_le_of_lt hw)]
  split <;> simp_all [formAt, accept_of_violation]

/-- Settles O10: the legal words are encodings, OP 0x0 and 0xD select no form, and the other illegal words each break the named
rule of their OP's form. -/
theorem specWordsDecode : Obligations.SpecWordsDecode := by
  have legal {i : Instr} {w : Word} (hwf : i.WellFormed Machine.lit) (he : encode i = w) := decode_of_encode_eq hwf he
  have breaks (f : Form) {w : Word} {e : Illegal} (hf : formAt Machine.lit (opOf w) = some f)
      (hv : f.violation w = some e) := decode_of_violation (L := Machine.lit) w.isLt hf hv
  have noForm {w : Word} (hf : formAt Machine.lit (opOf w) = none) := decode_of_formAt_none (L := Machine.lit) w.isLt hf
  exact ⟨legal rfl rfl, legal rfl rfl, legal rfl rfl, legal rfl rfl, legal rfl rfl, legal rfl rfl, legal rfl rfl, legal rfl rfl,
    legal rfl rfl, legal rfl rfl, legal rfl rfl, legal rfl rfl, legal rfl rfl, legal rfl rfl, legal rfl rfl,
    noForm rfl,
    breaks (.fsi Machine.lit) rfl rfl,
    breaks (.fmdi Machine.lit) rfl rfl,
    breaks (.ftdi Machine.lit) rfl rfl,
    breaks .fn rfl rfl,
    breaks (.fsi Machine.lit) rfl rfl,
    breaks (.fmdi Machine.lit) rfl rfl,
    noForm rfl⟩

end SpecWords

end Sys2Proof.Laws

/-! REDUCE_PULSE without the clamp of its percentage (93 I4). -/

namespace Sys2Proof.Machine

/-- Settles O40: without PCT_CLAMP the percentage is the immediate itself, at this hardware's base and bounds. -/
theorem reducePulseWithoutPercentageClamp : Obligations.ReducePulseWithoutPercentageClamp := by
  intro imm s hstd hset hclamp
  obtain ⟨-, -, hreduce, -⟩ := settersUseTheParameters 1 imm s hset
  rwa [hstd, hclamp, if_neg Bool.false_ne_true] at hreduce

end Sys2Proof.Machine
